-- ==== Sys2Proof/Word.lean ====
section
/-! DEFINITION. The word types of FRCE (00_scope.md R8, R10). -/

namespace Sys2Proof

/-- One input byte, one ring cell, one output byte: 8 bits (00_scope.md R8). -/
abbrev Byte := BitVec 8

/-- An input event as it is presented to FRCE: 10 bits (30_encoding.md R87). -/
abbrev EventWord := BitVec 10

/-- The read-only STATUS word: 16 bits (10_state.md R38). -/
abbrev StatusWord := BitVec 16

/-- A clock value in microseconds: TW = 64 bits (00_scope.md R8). -/
abbrev Micros := BitVec 64

end Sys2Proof
end

