-- ==== Sys2Proof/Config.lean ====
section
/-! DEFINITION. What is fixed for one FRCE from reset onward (00_scope.md R8, 10_state.md R43), and the
free values of its environment and scheduler: the clock's samples (60_exceptions.md R232), the sink's answers
(R223), and how long the emitter's DRAIN lets other steps go first (R237). -/

namespace Sys2Proof

/-- A configuration of FRCE. `capacity` is N and `checksumWidth` is CW (00_scope.md R8). `clock n` is
what the clock offers at its n-th draw, and `sink n` how many bytes the sink is willing to take at its
n-th answer: the operations bring both into the range the spec gives them. `patience n` is how many ING
steps the emitter lets pass in the n-th wait of an enabled DRAIN. -/
structure Config where
  capacity : Nat
  checksumWidth : Nat
  clock : Nat → Micros
  sink : Nat → Nat
  patience : Nat → Nat

/-- The constraints of 00_scope.md R8: N >= 2 and 0 <= CW <= 254. -/
abbrev Config.wf (c : Config) : Prop := 2 ≤ c.capacity ∧ c.checksumWidth ≤ 254

/-- IW, the width of an index register: max(1, ceil(log2 N)) (00_scope.md R8). -/
def Config.indexWidth (c : Config) : Nat := max 1 (Nat.clog 2 c.capacity)

/-- How far the ring's capacity N lies above its least value 2. FREE: the spec leaves N open
(92_eei_decisions.md D2); nothing can be proved of it (log 1). -/
opaque Config.capacityExcess : Nat

/-- The clock's samples, one per draw. FREE (60_exceptions.md R232, log 6). -/
opaque Config.freeClock : Nat → Micros

/-- The sink's answers, one per write. FREE (60_exceptions.md R223, log 7). -/
opaque Config.freeSink : Nat → Nat

/-- How many ING steps the scheduler lets go before an enabled DRAIN, one bound per wait. FREE, and finite
as weak fairness asks (60_exceptions.md R237, log 19). -/
opaque Config.freePatience : Nat → Nat

/-- The hardware of this spec: N any number from 2 on (log 1), and CW = 2 (00_scope.md R8). -/
def Config.machine : Config where
  capacity := Config.capacityExcess + 2
  checksumWidth := 2
  clock := Config.freeClock
  sink := Config.freeSink
  patience := Config.freePatience

theorem Config.machine_wf : Config.machine.wf := by
  simp [Config.wf, Config.machine]

end Sys2Proof
end

