-- ==== Sys2Proof/Syntax.lean ====
section
/-! DEFINITION. The events FRCE executes (spec/opcode_table.json) and the lines of an event program
(30_encoding.md R93, R94). -/

namespace Sys2Proof

/-- One constructor per row of spec/opcode_table.json. -/
inductive Instr where
  /-- ING: consume one input byte (41_reassembly_fsm.md R110). -/
  | ing (b : Byte)
  /-- DRAIN: emit every complete frame at the head of the ring (43_frame_emitter.md R160). -/
  | drain
  /-- SRCERR: the byte source cannot be opened or read (60_exceptions.md R224). -/
  | srcerr
  deriving DecidableEq, Repr

/-- The mnemonics an event program may use: the three events (30_encoding.md R93) and the two
pseudo-instructions (R94). -/
inductive AsmOp where
  | ing
  | drain
  | srcerr
  | bytes
  | frame
  deriving DecidableEq, Repr

/-- One line of an event program, its operands as the numbers that were written (30_encoding.md R93). -/
structure AsmLine where
  op : AsmOp
  operands : List Nat
  deriving DecidableEq, Repr

end Sys2Proof
end

