-- ==== Sys2Proof/WellFormed.lean ====
section
/-! DEFINITION. Which instructions and which program lines are well formed (30_encoding.md R89, R93, R94). -/

namespace Sys2Proof

/-- The operand ranges of 30_encoding.md R89. ING's operand is a byte by its type, so no term of Instr
fails the check: an ill-formed operand can be written only in an `AsmLine`. -/
def Instr.wf : Instr → Bool
  | .ing b => decide (b.toNat ≤ 255)
  | .drain => true
  | .srcerr => true

/-- How many operands a mnemonic takes: ING one, DRAIN and SRCERR none (30_encoding.md R93), FRAME at
most 254 (R94). BYTES takes any number (R94; none at all: DESIGN CHOICE, safe, log 16). -/
def AsmLine.arityOk (l : AsmLine) : Bool :=
  match l.op with
  | .ing => l.operands.length == 1
  | .drain => l.operands.isEmpty
  | .srcerr => l.operands.isEmpty
  | .bytes => true
  | .frame => decide (l.operands.length ≤ 254)

/-- A line the assembler accepts: its operands lie in 0..255 and there are as many as its mnemonic
takes (30_encoding.md R93, R94). -/
def AsmLine.wf (l : AsmLine) : Bool :=
  l.operands.all (fun n => decide (n ≤ 255)) && l.arityOk

end Sys2Proof
end

