-- ==== Sys2Proof/Decode.lean ====
section
/-! DEFINITION. The event word's decoder and encoder (30_encoding.md R87 to R91), and the assembler of
event programs (R93, R94). -/

namespace Sys2Proof

/-- The three kinds of reserved event word (30_encoding.md R90). -/
inductive ReservedWord where
  /-- kind 01 with data other than 0: 0x101 to 0x1FF. -/
  | drainData
  /-- kind 10 with data other than 0: 0x201 to 0x2FF. -/
  | srcerrData
  /-- kind 11 with any data: 0x300 to 0x3FF. -/
  | kind3
  deriving DecidableEq, Repr

/-- The field `kind`, ev[9:8] (30_encoding.md R87). -/
def eventKind (w : EventWord) : BitVec 2 := w.extractLsb' 8 2

/-- The field `data`, ev[7:0] (30_encoding.md R87, R89). -/
def eventData (w : EventWord) : Byte := w.extractLsb' 0 8

/-- The name under which a word that matches no row is refused (30_encoding.md R90). -/
def reservedName (w : EventWord) : ReservedWord :=
  if eventKind w = 1#2 then .drainData
  else if eventKind w = 2#2 then .srcerrData
  else .kind3

/-- The decode table of 30_encoding.md R88: a word selects the row whose match it has under the row's
mask. A word that selects none is refused by name (R90). -/
def decode (w : EventWord) : Except ReservedWord Instr :=
  if w &&& 0x300#10 = 0x000#10 then .ok (.ing (eventData w))
  else if w &&& 0x3FF#10 = 0x100#10 then .ok .drain
  else if w &&& 0x3FF#10 = 0x200#10 then .ok .srcerr
  else .error (reservedName w)

/-- The event word of an instruction, from the fields of 30_encoding.md R87: `kind` above `data`. -/
def encode : Instr → EventWord
  | .ing b => 0b00#2 ++ b
  | .drain => 0b01#2 ++ 0#8
  | .srcerr => 0b10#2 ++ 0#8

/-- The `mask` column of an instruction's row in 30_encoding.md R88. -/
def rowMask : Instr → EventWord
  | .ing _ => 0x300#10
  | .drain => 0x3FF#10
  | .srcerr => 0x3FF#10

/-- The `match` column of an instruction's row in 30_encoding.md R88. -/
def rowMatch : Instr → EventWord
  | .ing _ => 0x000#10
  | .drain => 0x100#10
  | .srcerr => 0x200#10

/-- ING 0xA5: kind 00, data 1010_0101 (30_encoding.md R87). -/
theorem decode_word_ing : decode 0b00_1010_0101#10 = .ok (.ing 0xA5#8) := by decide

/-- DRAIN: kind 01, data 0 (30_encoding.md R87). -/
theorem decode_word_drain : decode 0b01_0000_0000#10 = .ok .drain := by decide

/-- SRCERR: kind 10, data 0 (30_encoding.md R87). -/
theorem decode_word_srcerr : decode 0b10_0000_0000#10 = .ok .srcerr := by decide

/-- The 10-bit event word that the host's number stands for: the low `nbits` bits of `w`, of which a
decoder reads 10 (30_encoding.md R91; log 17). -/
def tableEventWord (nbits w : Nat) : EventWord := BitVec.ofNat 10 (w % 2 ^ nbits)

/-- The instruction the decoder reads from a word of spec/opcode_table.json. -/
def decodeTableWord (nbits w : Nat) : Option Instr :=
  (decode (tableEventWord nbits w)).toOption

/-! The assembler (30_encoding.md R93, R94). -/

/-- The ING events of a list of operands, in order. -/
def ingEach (ns : List Nat) : List Instr := ns.map fun n => .ing (BitVec.ofNat 8 n)

/-- The events a well-formed line stands for: BYTES is one ING per operand, FRAME is an ING of the
operand count plus one and then one ING per operand (30_encoding.md R94). An ill-formed line is
rejected (R93, R94). -/
def AsmLine.expand (l : AsmLine) : Option (List Instr) :=
  if l.wf then
    match l.op with
    | .ing => some (ingEach l.operands)
    | .drain => some [.drain]
    | .srcerr => some [.srcerr]
    | .bytes => some (ingEach l.operands)
    | .frame => some (.ing (BitVec.ofNat 8 (l.operands.length + 1)) :: ingEach l.operands)
  else none

/-- Why the assembler rejects a line (30_encoding.md R93, R94). -/
inductive AsmError where
  /-- The line's first word is none of the five mnemonics. -/
  | unknownMnemonic
  /-- An operand is no number in decimal or with a `0x` prefix. -/
  | badNumber
  /-- An operand outside 0..255, or a wrong number of operands. -/
  | badOperands
  deriving DecidableEq, Repr

/-- A space or a tab. -/
def isBlank (c : Char) : Bool := c == ' ' || c == '\t'

/-- A word without the blanks at its two ends. -/
def trimBlanks (cs : List Char) : List Char :=
  ((cs.dropWhile isBlank).reverse.dropWhile isBlank).reverse

/-- The pieces of a text between separators. -/
def splitOnChar (sep : Char) : List Char → List (List Char)
  | [] => [[]]
  | c :: cs =>
    if c = sep then [] :: splitOnChar sep cs
    else
      match splitOnChar sep cs with
      | [] => [[c]]
      | w :: ws => (c :: w) :: ws

/-- The value of a digit, in decimal or hexadecimal. -/
def digitValue (c : Char) : Option Nat :=
  let n := c.toNat
  if 48 ≤ n ∧ n ≤ 57 then some (n - 48)
  else if 65 ≤ n ∧ n ≤ 70 then some (n - 55)
  else if 97 ≤ n ∧ n ≤ 102 then some (n - 87)
  else none

/-- The digits of a number in the given base, most significant first, after the value read so far. -/
def digitsValue (base : Nat) : Nat → List Char → Option Nat
  | acc, [] => some acc
  | acc, c :: cs =>
    match digitValue c with
    | some d => if d < base then digitsValue base (acc * base + d) cs else none
    | none => none

/-- A number, decimal or with a `0x` prefix (30_encoding.md R93). -/
def parseNumber (cs : List Char) : Option Nat :=
  match cs with
  | [] => none
  | ['0', 'x'] => none
  | '0' :: 'x' :: ds => digitsValue 16 0 ds
  | ds => digitsValue 10 0 ds

/-- A mnemonic, in any case (30_encoding.md R93). -/
def parseMnemonic (cs : List Char) : Option AsmOp :=
  let m := cs.map Char.toLower
  if m = ['i', 'n', 'g'] then some .ing
  else if m = ['d', 'r', 'a', 'i', 'n'] then some .drain
  else if m = ['s', 'r', 'c', 'e', 'r', 'r'] then some .srcerr
  else if m = ['b', 'y', 't', 'e', 's'] then some .bytes
  else if m = ['f', 'r', 'a', 'm', 'e'] then some .frame
  else none

/-- The operands after a mnemonic: none, or numbers with commas between them (30_encoding.md R93, R94). -/
def parseOperands (cs : List Char) : Option (List Nat) :=
  if (trimBlanks cs).isEmpty then some []
  else (splitOnChar ',' cs).mapM fun w => parseNumber (trimBlanks w)

/-- One line of an event program: `;` starts a comment that runs to the end of the line, and a line with
nothing else on it stands for no event (30_encoding.md R93). -/
def parseLine (cs : List Char) : Except AsmError (Option AsmLine) :=
  let body := trimBlanks (cs.takeWhile fun c => c != ';')
  if body.isEmpty then .ok none
  else
    match parseMnemonic (body.takeWhile fun c => !isBlank c) with
    | none => .error .unknownMnemonic
    | some op =>
      match parseOperands (body.dropWhile fun c => !isBlank c) with
      | none => .error .badNumber
      | some ns => .ok (some ⟨op, ns⟩)

/-- The event words of one line (30_encoding.md R93, R94). -/
def assembleLine (cs : List Char) : Except AsmError (List EventWord) :=
  match parseLine cs with
  | .error e => .error e
  | .ok none => .ok []
  | .ok (some l) =>
    match l.expand with
    | none => .error .badOperands
    | some instrs => .ok (instrs.map encode)

/-- The event words of a program, one event or pseudo-instruction a line (30_encoding.md R93). -/
def assemble : List (List Char) → Except AsmError (List EventWord)
  | [] => .ok []
  | l :: ls =>
    match assembleLine l with
    | .error e => .error e
    | .ok ws =>
      match assemble ls with
      | .error e => .error e
      | .ok rest => .ok (ws ++ rest)

end Sys2Proof
end

