-- ==== Sys2Proof/Machine/State.lean ====
section
/-! DEFINITION. The state of FRCE (10_state.md R20), its reset (70_reset_and_hazards.md R261) and the
reasons a step can stop. -/

namespace Sys2Proof.Machine

/-- The FSM's two states (10_state.md R21). -/
inductive FsmState where
  /-- AL, encoded 0. -/
  | awaitingLength
  /-- CB, encoded 1. -/
  | capturingBody
  deriving DecidableEq, Repr

/-- Why the session ended, register `cause` (10_state.md R35, 60_exceptions.md R221). Code 3 is never
written, so it is no value here (log 11). -/
inductive Cause where
  /-- code 0: no termination. -/
  | none
  /-- code 1. -/
  | sourceUnavailable
  /-- code 2. -/
  | sinkClosed
  deriving DecidableEq, Repr

/-- What the environment or the free scheduler puts forward (60_exceptions.md R220, R228, R237; log 4). -/
inductive Input where
  /-- An event word is presented (30_encoding.md R87). -/
  | event (w : EventWord)
  /-- The scheduler picks the autonomous step HDR (43_frame_emitter.md R180). -/
  | header
  /-- The RESET input (70_reset_and_hazards.md R260). -/
  | reset
  deriving DecidableEq, Repr

/-- Why the model stops with an error. No run of the spec's rules reaches one (70_reset_and_hazards.md
R269), and stopping is safe: the spec asks a model for it. -/
inductive Fault where
  /-- Raised by `peekAt`, on an offset with no unread byte (42_ring_buffer.md R142). Safe. -/
  | peekBeyondUnread (offset : Nat)
  /-- Raised by `advanceRead`, on more bytes than are unread (42_ring_buffer.md R143). Safe. -/
  | advanceBeyondUnread (count : Nat)
  /-- Raised by `peekAt`, on a cell no push has written since reset (10_state.md R26). Safe. -/
  | unwrittenCell (index : Nat)
  deriving DecidableEq, Repr

/-- Why the machine takes no step for what it is given. -/
inductive Refusal where
  /-- Raised by an arm of `exec` whose instruction has no meaning yet: none has been left so. Safe. -/
  | notModelled (mnemonic : String)
  /-- Raised by `step` on a reserved event word, as 30_encoding.md R90 says. Safe. -/
  | reservedEvent (name : ReservedWord)
  deriving DecidableEq, Repr

/-- The state of FRCE (10_state.md R20), and after it the model's own record of its environment. -/
structure State where
  /-- R21 -/
  fsm : FsmState
  /-- R22 -/
  len : Byte
  /-- R23 -/
  cnt : Byte
  /-- R24, below N -/
  wr : Nat
  /-- R25, below N -/
  rd : Nat
  /-- R26: the cells a push has written since reset, by index, rising -/
  ring : List Host.Cell
  /-- R27, below N -/
  fs : Nat
  /-- R28 -/
  discard : Bool
  /-- R29 -/
  ready : Bool
  /-- R30, `hdr_done` -/
  hdrDone : Bool
  /-- R31, `start_epoch` -/
  startEpoch : Micros
  /-- R32, `last_now` -/
  lastNow : Micros
  /-- R33 -/
  ovr : Bool
  /-- R34 -/
  fi : Bool
  /-- R35 -/
  term : Bool
  /-- R35 -/
  cause : Cause
  /-- R36 -/
  out : List Byte
  /-- the model's own: what is put forward now and waits to be taken (log 4, log 18) -/
  inputs : List Input
  /-- the model's own: how many clock samples have been drawn (log 6) -/
  clockDraws : Nat
  /-- the model's own: how many answers the sink has given (log 7) -/
  sinkDraws : Nat
  /-- the model's own: how many ING steps the enabled DRAIN has let pass (log 19) -/
  drainWait : Nat
  /-- the model's own: how many waits of DRAIN a DRAIN or a RESET has ended, which picks the next bound (log 19) -/
  drainTurns : Nat
  deriving DecidableEq, Repr

/-- The state RESET leaves (70_reset_and_hazards.md R261). `startEpoch` and `lastNow` have no value
there in the spec: 0 is the model's (DESIGN CHOICE, unsafe, log 3). The last five fields are the
model's own (DESIGN CHOICE, log 4, log 6, log 7, log 19). -/
def State.reset : State where
  fsm := .awaitingLength
  len := 0
  cnt := 0
  wr := 0
  rd := 0
  ring := []
  fs := 0
  discard := false
  ready := false
  hdrDone := false
  startEpoch := 0
  lastNow := 0
  ovr := false
  fi := false
  term := false
  cause := .none
  out := []
  inputs := []
  clockDraws := 0
  sinkDraws := 0
  drainWait := 0
  drainTurns := 0

end Sys2Proof.Machine
end

