-- ==== Sys2Proof/Machine/Ops.lean ====
section
/-! DEFINITION. The operations over the ring, the cursors, the byte order of the output, the clock, the
sink, and termination (42_ring_buffer.md, 60_exceptions.md R223, R229, R232). -/

namespace Sys2Proof.Machine

/-! The ring's cells, held as (index, byte) pairs with rising indices. An index that is not listed has
no value (10_state.md R26, log 12). -/

/-- The canonical form of the ring's cells: indices strictly rise. No entry can equal what an unlisted
index reads as, since an unlisted index has no value (log 12). -/
abbrev Memory.wf (m : List Host.Cell) : Prop := m.Pairwise fun x y => x.1 < y.1

/-- `ring[i]`: the byte last stored at index `i`, or no value (00_scope.md R13, 10_state.md R26). -/
def Memory.read : List Host.Cell → Nat → Option Byte
  | [], _ => none
  | (a, v) :: m, i => if a = i then some v else Memory.read m i

/-- `ring[i] <- v` (00_scope.md R13). -/
def Memory.write : List Host.Cell → Nat → Byte → List Host.Cell
  | [], i, v => [(i, v)]
  | (a, w) :: m, i, v =>
    if i < a then (i, v) :: (a, w) :: m
    else if i = a then (i, v) :: m
    else (a, w) :: Memory.write m i v

/-! The ring buffer's operations. -/

/-- bytes_available() (42_ring_buffer.md R141). -/
def bytesAvailable (c : Config) (s : State) : Nat :=
  if s.wr < s.rd then c.capacity - (s.rd - s.wr) else s.wr - s.rd

/-- The ring is full at N - 1 unread bytes (42_ring_buffer.md R140, R145). -/
def ringFull (c : Config) (s : State) : Bool := bytesAvailable c s == c.capacity - 1

/-- push(b): whether the byte was stored, and the state after (42_ring_buffer.md R140). -/
def push (c : Config) (b : Byte) (s : State) : Bool × State :=
  if ringFull c s then (false, s)
  else (true, { s with ring := Memory.write s.ring s.wr b, wr := (s.wr + 1) % c.capacity })

/-- The index of the unread byte at offset `k`, by true `mod N` (42_ring_buffer.md R142, R146). -/
def unreadIndex (c : Config) (s : State) (k : Nat) : Nat := (s.rd + k) % c.capacity

/-- peek_at(k); an offset with no unread byte faults, and so does a cell without a value
(42_ring_buffer.md R142, 10_state.md R26). -/
def peekAt (c : Config) (k : Nat) (s : State) : Except Fault Byte :=
  if k < bytesAvailable c s then
    match Memory.read s.ring (unreadIndex c s k) with
    | some v => .ok v
    | none => .error (.unwrittenCell (unreadIndex c s k))
  else .error (.peekBeyondUnread k)

/-- The sequence [peek_at(k), peek_at(k + 1), ...] of `n` bytes (43_frame_emitter.md R166). -/
def peekFrom (c : Config) (s : State) : Nat → Nat → Except Fault (List Byte)
  | _, 0 => .ok []
  | k, n + 1 =>
    match peekAt c k s with
    | .error f => .error f
    | .ok b =>
      match peekFrom c s (k + 1) n with
      | .error f => .error f
      | .ok bs => .ok (b :: bs)

/-- advance_read(n); more than the unread bytes faults (42_ring_buffer.md R143). -/
def advanceRead (c : Config) (n : Nat) (s : State) : Except Fault State :=
  if n ≤ bytesAvailable c s then .ok { s with rd := unreadIndex c s n }
  else .error (.advanceBeyondUnread n)

/-- rollback() (42_ring_buffer.md R144). -/
def rollback (s : State) : State := { s with wr := s.fs }

/-! The byte order of the output: least significant byte first (00_scope.md R13, 20_memory.md R62). -/

/-- le16(v) (00_scope.md R13). -/
def le16 (v : BitVec 16) : List Byte := [v.extractLsb' 0 8, v.extractLsb' 8 8]

/-- le32(v) (00_scope.md R13). -/
def le32 (v : BitVec 32) : List Byte :=
  [v.extractLsb' 0 8, v.extractLsb' 8 8, v.extractLsb' 16 8, v.extractLsb' 24 8]

/-- GLOBAL_HEADER: magic, version_major, version_minor, timezone, sigfigs, snaplen, link_type
(30_encoding.md R82, R83). -/
def globalHeader : List Byte :=
  le32 0xa1b2c3d4#32 ++ le16 2#16 ++ le16 4#16 ++ le32 0#32 ++ le32 0#32 ++ le32 65535#32 ++ le32 195#32

/-! Termination, in place of taking an exception: nothing is saved and no address is gone to
(60_exceptions.md R229, R231). There is no return from it (R230). -/

/-- raise Terminate(cause) (60_exceptions.md R229). -/
def terminate (k : Cause) (s : State) : State := { s with term := true, cause := k }

/-! The environment's answers. -/

/-- The clock's next sample: free, but never below `floor` (60_exceptions.md R232, log 6). -/
def clockSample (c : Config) (floor : Micros) (n : Nat) : Micros :=
  if floor ≤ c.clock n then c.clock n else floor

/-- t <- draw_clock(); last_now <- t (60_exceptions.md R232, 43_frame_emitter.md R165). The clock's
promise is `t >= floor`: emit_one's floor is `last_now`; HDR's is 0, since `last_now` has no value
before HDR writes it (10_state.md R32; DEDUCED, safe, log 8). -/
def drawClock (c : Config) (floor : Micros) (s : State) : State :=
  { s with lastNow := clockSample c floor s.clockDraws, clockDraws := s.clockDraws + 1 }

/-- draw_sink(n): free, from 0 to `n` (60_exceptions.md R223, log 7). -/
def sinkAnswer (c : Config) (draw n : Nat) : Nat := min (c.sink draw) n

/-- SinkWrite(bs) (60_exceptions.md R223): nothing is asked for an empty write; else the sink takes a
part from the front, and if that is not all, the session terminates with SinkClosed (R225). -/
def sinkWrite (c : Config) (bs : List Byte) (s : State) : State :=
  if bs.isEmpty then s
  else
    let k := sinkAnswer c s.sinkDraws bs.length
    let s1 := { s with out := s.out ++ bs.take k, sinkDraws := s.sinkDraws + 1 }
    if k < bs.length then terminate .sinkClosed s1 else s1

end Sys2Proof.Machine
end

