-- ==== Sys2Proof/Machine/Operands.lean ====
section
/-! DEFINITION. What is computed from a length byte and from a clock sample (30_encoding.md R89,
43_frame_emitter.md R161 to R164). -/

namespace Sys2Proof.Machine

/-- The footprint F = max(L, 1): the ring cells a frame with length byte `L` occupies
(43_frame_emitter.md R161). -/
def footprint (l : Byte) : Nat := max l.toNat 1

/-- included_length = (max(L, 1) - 1) -sat CW (43_frame_emitter.md R162). -/
def includedLength (c : Config) (l : Byte) : Nat := (footprint l - 1) - c.checksumWidth

/-- original_length: the stored length byte, zero-extended to 32 bits (43_frame_emitter.md R163). -/
def originalLength (l : Byte) : BitVec 32 := l.setWidth 32

/-- e = t - start_epoch, microseconds since session start (43_frame_emitter.md R164). The clock never
goes backwards, so e >= 0; where a state that no run reaches has t < start_epoch, e is 0 here
(DESIGN CHOICE, unsafe in those states only, log 10). -/
def elapsed (epoch t : Micros) : Nat := t.toNat - epoch.toNat

/-- seconds = (e div 1000000) mod 2^32 (43_frame_emitter.md R164). -/
def seconds (e : Nat) : BitVec 32 := BitVec.ofNat 32 (e / 1000000)

/-- microseconds = e mod 1000000 (43_frame_emitter.md R164). -/
def microseconds (e : Nat) : BitVec 32 := BitVec.ofNat 32 (e % 1000000)

/-- The 16-byte header of a frame record (30_encoding.md R84, 43_frame_emitter.md R166). -/
def recordHeader (c : Config) (e : Nat) (l : Byte) : List Byte :=
  le32 (seconds e) ++ le32 (microseconds e) ++ le32 (BitVec.ofNat 32 (includedLength c l))
    ++ le32 (originalLength l)

/-- The completion test `cnt = len - 1`, over the integers: where `len` is 0, which no run reaches here,
it never holds (41_reassembly_fsm.md R112; DEDUCED, safe, log 10). -/
def bodyComplete (s : State) : Bool := s.cnt.toNat + 1 == s.len.toNat

/-- A length byte of a degenerate frame, 0 or 1 (41_reassembly_fsm.md R114). -/
def isDegenerate (b : Byte) : Bool := decide (b.toNat ≤ 1)

/-- The head frame is the one the FSM is still reassembling (43_frame_emitter.md R168). -/
def headInProgress (s : State) : Bool :=
  s.fsm == .capturingBody && !s.discard && s.rd == s.fs

end Sys2Proof.Machine
end

