-- ==== Sys2Proof/Machine/Flags.lean ====
section
/-! DEFINITION. The flags' updates, the enabling conditions of the steps, and the read-only status outputs
(10_state.md R38, R39; 41_reassembly_fsm.md R110; 43_frame_emitter.md R160, R180; 60_exceptions.md R224). -/

namespace Sys2Proof.Machine

/-- An overrun sets both sticky flags (60_exceptions.md R227). -/
def raiseOverrun (s : State) : State := { s with ovr := true, fi := true }

/-- FramingInconsistency sets `fi` and changes nothing else (60_exceptions.md R226). -/
def raiseInconsistency (s : State) : State := { s with fi := true }

/-! Enabling conditions: a step whose condition is false is not taken (00_scope.md R14). -/

/-- ING (41_reassembly_fsm.md R110). -/
def ingEnabled (s : State) : Bool := s.hdrDone && !s.term

/-- DRAIN (43_frame_emitter.md R160). -/
def drainEnabled (s : State) : Bool := s.ready && s.hdrDone && !s.term

/-- SRCERR (60_exceptions.md R224). -/
def srcerrEnabled (s : State) : Bool := !s.term

/-- HDR (43_frame_emitter.md R180). -/
def headerEnabled (s : State) : Bool := !s.hdrDone && !s.term

/-- The enabling condition of an event. -/
def enabled : Instr → State → Bool
  | .ing _, s => ingEnabled s
  | .drain, s => drainEnabled s
  | .srcerr, s => srcerrEnabled s

/-! Status outputs: read-only, with no effect on any step (10_state.md R38, R39). -/

/-- `fsm` as it is encoded (10_state.md R21). -/
def FsmState.code : FsmState → BitVec 1
  | .awaitingLength => 0
  | .capturingBody => 1

/-- `cause` as it is encoded (60_exceptions.md R221). -/
def Cause.code : Cause → BitVec 2
  | .none => 0
  | .sourceUnavailable => 1
  | .sinkClosed => 2

/-- The STATUS word: reserved [15:9], CAUSE [8:7], TERM [6], FI [5], OVR [4], HDR_DONE [3], READY [2],
DISCARD [1], FSM [0] (10_state.md R38). -/
def status (s : State) : StatusWord :=
  0#7 ++ s.cause.code ++ BitVec.ofBool s.term ++ BitVec.ofBool s.fi ++ BitVec.ofBool s.ovr
    ++ BitVec.ofBool s.hdrDone ++ BitVec.ofBool s.ready ++ BitVec.ofBool s.discard ++ s.fsm.code

/-- The other read-only outputs (10_state.md R39), each at its width. -/
structure StatusOutputs (c : Config) where
  len : Byte
  cnt : Byte
  wr : BitVec c.indexWidth
  rd : BitVec c.indexWidth
  avail : BitVec c.indexWidth
  deriving DecidableEq, Repr

/-- LEN, CNT, WR, RD and AVAIL in a state (10_state.md R39). -/
def statusOutputs (c : Config) (s : State) : StatusOutputs c where
  len := s.len
  cnt := s.cnt
  wr := BitVec.ofNat _ s.wr
  rd := BitVec.ofNat _ s.rd
  avail := BitVec.ofNat _ (bytesAvailable c s)

end Sys2Proof.Machine
end

