-- ==== Sys2Proof/Machine/Emitter.lean ====
section
/-! DEFINITION. The frame emitter: DRAIN and HDR (43_frame_emitter.md). -/

namespace Sys2Proof.Machine

/-- emit_one(): the head frame's record, and the state after it is consumed (43_frame_emitter.md R166). -/
def emitOne (c : Config) (s : State) : Except Fault (List Byte × State) :=
  match peekAt c 0 s with
  | .error f => .error f
  | .ok l =>
    let s1 := drawClock c s.lastNow s
    match peekFrom c s1 1 (includedLength c l) with
    | .error f => .error f
    | .ok payload =>
      match advanceRead c (footprint l) s1 with
      | .error f => .error f
      | .ok s2 => .ok (recordHeader c (elapsed s1.startEpoch s1.lastNow) l ++ payload, s2)

/-- DRAIN's loop, from the bytes gathered so far (43_frame_emitter.md R160, R168, R169). `fuel` bounds
the number of passes: every pass that goes on consumes at least one unread byte, so the number of unread
bytes is enough, and with none left the loop exits as R169 says (DEDUCED, safe, log 15). -/
def drainLoop (c : Config) : Nat → List Byte → State → Except Fault (List Byte × State)
  | 0, bs, s => .ok (bs, s)
  | fuel + 1, bs, s =>
    let avail := bytesAvailable c s
    if avail = 0 then .ok (bs, s)
    else
      match peekAt c 0 s with
      | .error f => .error f
      | .ok l =>
        if avail < footprint l then
          .ok (bs, if headInProgress s then s else raiseInconsistency s)
        else
          match emitOne c s with
          | .error f => .error f
          | .ok (record, s1) =>
            if avail = footprint l then .ok (bs ++ record, s1)
            else drainLoop c fuel (bs ++ record) s1

/-- DRAIN where it is enabled; elsewhere there is no step and nothing changes (43_frame_emitter.md R160;
DEDUCED, safe, log 2). -/
def drainWith (c : Config) (s : State) : Host.Outcome State Fault Refusal :=
  if drainEnabled s then
    match drainLoop c (bytesAvailable c s) [] s with
    | .error f => .fault f
    | .ok (bs, s1) => .next (sinkWrite c bs { s1 with ready := false })
  else .next s

/-- DRAIN (43_frame_emitter.md R160). -/
def execDrain (s : State) : Host.Outcome State Fault Refusal := drainWith Config.machine s

/-- HDR where it is enabled: the clock sample becomes `start_epoch` and `last_now`, `hdr_done` is set,
and the global header is offered to the sink (43_frame_emitter.md R180; the clock's floor: log 8). -/
def headerNext (c : Config) (s : State) : State :=
  if headerEnabled s then
    let s1 := drawClock c 0 s
    sinkWrite c globalHeader { s1 with startEpoch := s1.lastNow, hdrDone := true }
  else s

end Sys2Proof.Machine
end

