-- ==== Sys2Proof/Machine/Errors.lean ====
section
/-! DEFINITION. SRCERR, the byte source's failure (60_exceptions.md R224). -/

namespace Sys2Proof.Machine

/-- SRCERR where it is enabled; elsewhere there is no step and nothing changes (60_exceptions.md R224,
R230; DEDUCED, safe, log 2). -/
def execSrcerr (s : State) : Host.Outcome State Fault Refusal :=
  .next (if srcerrEnabled s then terminate .sourceUnavailable s else s)

end Sys2Proof.Machine
end

