-- ==== Sys2Proof/Machine/Reassembly.lean ====
section
/-! DEFINITION. ING, the frame reassembly state machine (41_reassembly_fsm.md). -/

namespace Sys2Proof.Machine

/-! The assignments of the three arms, each named once. -/

/-- len <- b; cnt <- 0; fs <- wr (41_reassembly_fsm.md R111). -/
def startFrame (b : Byte) (s : State) : State := { s with len := b, cnt := 0, fs := s.wr }

/-- A degenerate frame is complete at once: fsm <- AL, discard <- 0, and `ready` if its byte was stored
(41_reassembly_fsm.md R111, R114). -/
def finishDegenerate (stored : Bool) (s : State) : State :=
  { s with fsm := .awaitingLength, discard := false, ready := s.ready || stored }

/-- fsm <- CB, and `discard` if the length byte was not stored (41_reassembly_fsm.md R111). -/
def startBody (stored : Bool) (s : State) : State :=
  { s with fsm := .capturingBody, discard := !stored }

/-- An overrun in the body: rollback, `ovr`, `fi`, discard <- 1 (41_reassembly_fsm.md R112). -/
def dropFrame (s : State) : State := { raiseOverrun (rollback s) with discard := true }

/-- cnt <- cnt + 1 (41_reassembly_fsm.md R112, R113). -/
def countBodyByte (s : State) : State := { s with cnt := s.cnt + 1 }

/-- The frame's last body byte: fsm <- AL, `ready` unless the frame is being discarded, discard <- 0
(41_reassembly_fsm.md R112). -/
def finishFrame (s : State) : State :=
  { s with fsm := .awaitingLength, ready := s.ready || !s.discard, discard := false }

/-- A dropped frame's last body byte: fsm <- AL, discard <- 0 (41_reassembly_fsm.md R113). -/
def finishDropped (s : State) : State := { s with fsm := .awaitingLength, discard := false }

/-! The three arms. -/

/-- ING_AL: the length byte of a new frame (41_reassembly_fsm.md R111, R114). -/
def ingLength (c : Config) (b : Byte) (s : State) : State :=
  let p := push c b (startFrame b s)
  let s1 := if p.1 then p.2 else raiseOverrun p.2
  if isDegenerate b then finishDegenerate p.1 s1 else startBody p.1 s1

/-- ING_CB: a body byte that is stored, or that overruns and drops its frame (41_reassembly_fsm.md R112). -/
def ingBody (c : Config) (b : Byte) (s : State) : State :=
  let p := push c b s
  let s1 := countBodyByte (if p.1 then p.2 else dropFrame p.2)
  if bodyComplete s1 then finishFrame s1 else s1

/-- ING_DISCARD: a body byte of a dropped frame, counted and not stored (41_reassembly_fsm.md R113). -/
def ingDiscard (_b : Byte) (s : State) : State :=
  let s1 := countBodyByte s
  if bodyComplete s1 then finishDropped s1 else s1

/-- ING's dispatch over its three arms (41_reassembly_fsm.md R110). -/
def ingArm (c : Config) (b : Byte) (s : State) : State :=
  match s.fsm, s.discard with
  | .awaitingLength, _ => ingLength c b s
  | .capturingBody, false => ingBody c b s
  | .capturingBody, true => ingDiscard b s

/-- ING where it is enabled; elsewhere there is no step and nothing changes (41_reassembly_fsm.md R110,
20_memory.md R72; DEDUCED, safe, log 2). -/
def ingNext (c : Config) (b : Byte) (s : State) : State :=
  if ingEnabled s then ingArm c b s else s

/-- ING (41_reassembly_fsm.md R110). -/
def execIng (b : Byte) (s : State) : Host.Outcome State Fault Refusal :=
  .next (ingNext Config.machine b s)

end Sys2Proof.Machine
end

