-- ==== Sys2Proof/Machine/Dispatch.lean ====
section
/-! DEFINITION. One arm per row of spec/opcode_table.json. -/

namespace Sys2Proof.Machine

def exec (i : Instr) (s : State) : Host.Outcome State Fault Refusal :=
  match i with
  | .ing b => Sys2Proof.Machine.execIng b s
  | .drain => Sys2Proof.Machine.execDrain s
  | .srcerr => Sys2Proof.Machine.execSrcerr s

end Sys2Proof.Machine
end

