-- ==== Sys2Proof/Machine/Session.lean ====
section
/-! DEFINITION. RESET, and which step is taken next (60_exceptions.md R222, R228, R235, R237;
70_reset_and_hazards.md R260, R263). -/

namespace Sys2Proof.Machine

/-- RESET, enabled in every state: every register takes its reset value (70_reset_and_hazards.md R260).
What the environment has offered and not seen consumed stays with it, and its clock and its sink go on to
their next answers (DEDUCED, safe, log 13). A RESET ends the wait of an enabled DRAIN, so the next wait has
a bound of its own (log 19). -/
def resetNext (s : State) : State :=
  { State.reset with
    inputs := s.inputs
    clockDraws := s.clockDraws
    sinkDraws := s.sinkDraws
    drainTurns := s.drainTurns + 1 }

/-- An input that something is done with when its turn comes: a step that is enabled, or a reserved word,
which is refused (30_encoding.md R90). Any other input stays where it is (20_memory.md R72). -/
def selectable (s : State) : Input → Bool
  | .reset => true
  | .header => headerEnabled s
  | .event w =>
    match decode w with
    | .ok i => enabled i s
    | .error _ => true

/-- The first selectable input, and the inputs without it. Inputs before it are not consumed and keep
their order (20_memory.md R72; log 4). -/
def selectFirst (s : State) : List Input → Option (Input × List Input)
  | [] => none
  | x :: xs =>
    if selectable s x then some (x, xs)
    else
      match selectFirst s xs with
      | none => none
      | some (y, ys) => some (y, x :: ys)

/-- Nothing can be done with the input at the front: there is none, or its step is not enabled. -/
def frontWaits (s : State) : Bool :=
  match s.inputs with
  | [] => true
  | x :: _ => !selectable s x

/-! The emitter's scheduler: weak fairness on DRAIN (60_exceptions.md R237, log 19). Of the steps that can be
taken while DRAIN is enabled, only ING leaves it enabled. -/

/-- DRAIN is enabled and has let pass as many ING steps as the scheduler's bound allows. -/
def drainDue (c : Config) (s : State) : Bool :=
  drainEnabled s && decide (c.patience s.drainTurns < s.drainWait)

/-- An ING gives way to a DRAIN that is due. -/
def givesWay : Instr → Bool
  | .ing _ => true
  | .drain => false
  | .srcerr => false

/-- The scheduler's count when `i` is taken: an ING that goes before an enabled DRAIN makes it wait one
step more, and a DRAIN ends its wait, so the next wait has a bound of its own. -/
def countTurn (i : Instr) (s : State) : State :=
  match i with
  | .ing _ => { s with drainWait := if drainEnabled s then s.drainWait + 1 else 0 }
  | .drain => { s with drainWait := 0, drainTurns := s.drainTurns + 1 }
  | .srcerr => s

/-- What happens next. -/
inductive Action where
  /-- The event `i` is executed in `s`, its word consumed. -/
  | run (i : Instr) (s : State)
  /-- HDR is taken in `s`. -/
  | header (s : State)
  /-- RESET is taken in `s`. -/
  | reset (s : State)
  /-- A reserved word is refused. -/
  | reject (name : ReservedWord)
  /-- No step is enabled: FRCE waits (60_exceptions.md R235) or has terminated (R230). -/
  | wait
  deriving DecidableEq, Repr

/-- The choice of the next step. HDR is autonomous: it is taken when the front input must wait and HDR
is enabled (43_frame_emitter.md R180, 70_reset_and_hazards.md R263). Else the first selectable input is
taken, unless it is an ING and a DRAIN is due: then the emitter takes its DRAIN (60_exceptions.md R237,
log 19). Where no input is selectable, the emitter takes its DRAIN if it is enabled, and else no step is
enabled (DEDUCED, safe, log 5). -/
def pick (c : Config) (s : State) : Action :=
  if headerEnabled s && frontWaits s then .header s
  else
    match selectFirst s s.inputs with
    | some (.event w, rest) =>
      match decode w with
      | .ok i =>
        if givesWay i && drainDue c s then .run .drain (countTurn .drain s)
        else .run i (countTurn i { s with inputs := rest })
      | .error r => .reject r
    | some (.header, rest) => .header { s with inputs := rest }
    | some (.reset, rest) => .reset { s with inputs := rest }
    | none => if drainEnabled s then .run .drain (countTurn .drain s) else .wait

/-- The state in which `step` takes the word `w` next and, if it is an event, executes it: the word
stands at the front of the inputs, what the event's enabling condition asks for is set, and no DRAIN is due
before an ING (log 14). -/
def presentEvent (w : EventWord) (s : State) : State :=
  match decode w with
  | .ok (.ing _) =>
    { s with
      inputs := .event w :: s.inputs, hdrDone := true, term := false, cause := .none, drainWait := 0 }
  | .ok .drain =>
    { s with inputs := .event w :: s.inputs, hdrDone := true, ready := true, term := false, cause := .none }
  | .ok .srcerr => { s with inputs := .event w :: s.inputs, term := false, cause := .none }
  | .error _ => { s with inputs := .event w :: s.inputs }

end Sys2Proof.Machine
end

