-- ==== Sys2Proof/Machine/Step.lean ====
section
/-! DEFINITION. One step of FRCE (00_scope.md R7, 20_memory.md R67). -/

namespace Sys2Proof.Machine

/-- One atomic step: the one `pick` chooses. Where none is enabled the state stays as it is
(60_exceptions.md R230, R235; DEDUCED, safe, log 2). -/
def step (s : State) : Host.Outcome State Fault Refusal :=
  match pick Config.machine s with
  | .run i t => exec i t
  | .header t => .next (headerNext Config.machine t)
  | .reset t => .next (resetNext t)
  | .reject r => .refused (.reservedEvent r)
  | .wait => .next s

/-- The host's way to have the next step run one word of spec/opcode_table.json (log 14). -/
def State.withFetchWord (s : State) (nbits w : Nat) : State :=
  presentEvent (tableEventWord nbits w) s

end Sys2Proof.Machine
end

