-- ==== Sys2Proof/Machine/Run.lean ====
section
/-! DEFINITION. The environment that puts inputs forward step by step, for ever if it will, and the runs of
FRCE in it (60_exceptions.md R220, R222, R228, R237). -/

namespace Sys2Proof.Machine

/-- The byte source: a finite or infinite sequence of input bytes (60_exceptions.md R222). -/
inductive ByteSource where
  /-- The source has these bytes and no more. -/
  | finite (bytes : List Byte)
  /-- The source has a byte at every position. -/
  | infinite (byteAt : Nat → Byte)

/-- The source's first `n` bytes, or all it has. -/
def ByteSource.take : ByteSource → Nat → List Byte
  | .finite bytes, n => bytes.take n
  | .infinite byteAt, n => (List.range n).map byteAt

/-- What may be put forward beside the source's bytes. -/
inductive Offer where
  /-- The byte source reports failure (60_exceptions.md R222, R224). -/
  | sourceError
  /-- The scheduler picks a DRAIN (60_exceptions.md R237). -/
  | drain
  /-- The scheduler picks HDR (43_frame_emitter.md R180). -/
  | header
  /-- RESET (70_reset_and_hazards.md R260). -/
  | reset
  deriving DecidableEq, Repr

/-- The input an offer stands for. -/
def Offer.input : Offer → Input
  | .sourceError => .event (encode .srcerr)
  | .drain => .event (encode .drain)
  | .header => .header
  | .reset => .reset

/-- An environment: its byte source, how many more of the source's bytes become available before each step,
and what else is put forward then. Nothing is asked of it: the source may stop offering bytes, or never
(60_exceptions.md R237). -/
structure Environment where
  source : ByteSource
  newlyAvailable : Nat → Nat
  offers : Nat → List Offer

/-- How many of the source's bytes have become available before step `n` (60_exceptions.md R222). -/
def Environment.available (e : Environment) : Nat → Nat
  | 0 => 0
  | n + 1 => e.available n + e.newlyAvailable n

/-- The bytes that become available between step `n - 1` and step `n`. -/
def Environment.newBytes (e : Environment) (n : Nat) : List Byte :=
  (e.source.take (e.available (n + 1))).drop (e.available n)

/-- All that is put forward between step `n - 1` and step `n`: the source's new bytes and then the other
offers. The spec fixes no order between them (60_exceptions.md R228); this one is the model's, and an
environment has any other by putting them forward before different steps (DESIGN CHOICE, safe, log 20). -/
def Environment.arrivals (e : Environment) (n : Nat) : List Input :=
  (e.newBytes n).map (fun b => .event (encode (.ing b))) ++ (e.offers n).map Offer.input

/-- What arrives waits behind what is already there (20_memory.md R72). -/
def arrive (e : Environment) (n : Nat) (s : State) : State :=
  { s with inputs := s.inputs ++ e.arrivals n }

/-- `run` is an infinite run in the environment `e`: step `n` is taken in `run n`, after what arrives before
it. A run that ends stays where it is, so a finite run is the beginning of an infinite one
(60_exceptions.md R237, R238; log 2). -/
def IsRun (e : Environment) (run : Nat → State) : Prop :=
  ∀ n, step (arrive e n (run n)) = .next (run (n + 1))

/-- What step `n` of a run is. -/
def actionAt (e : Environment) (run : Nat → State) (n : Nat) : Action :=
  pick Config.machine (arrive e n (run n))

/-- The input bytes a step consumes: an ING's, and none for any other step (60_exceptions.md R222). -/
def Action.bytes : Action → List Byte
  | .run (.ing b) _ => [b]
  | .run .drain _ => []
  | .run .srcerr _ => []
  | .header _ => []
  | .reset _ => []
  | .reject _ => []
  | .wait => []

/-- The input bytes the first `n` steps of a run consume. -/
def consumedBytes (e : Environment) (run : Nat → State) : Nat → List Byte
  | 0 => []
  | n + 1 => consumedBytes e run n ++ (actionAt e run n).bytes

end Sys2Proof.Machine
end

