-- ==== Sys2Proof/Safety.lean ====
section
/-! DEFINITION. The terms claims are stated in: the frames the ring holds, the invariants of every
reachable state (10_state.md R42), the shape of the output (30_encoding.md R84, R86), the records a DRAIN
emits (43_frame_emitter.md R160 to R171), runs of ING events, and the end of a run (60_exceptions.md R238). -/

namespace Sys2Proof

open Sys2Proof.Machine

/-! The frames in the ring (10_state.md R42 item 5). -/

/-- The cells that hold unread bytes, oldest first (10_state.md R42 item 5). -/
def unreadCells (c : Config) (s : State) : List (Option Byte) :=
  (List.range (bytesAvailable c s)).map fun k => Memory.read s.ring (unreadIndex c s k)

/-- A complete frame: its length byte first, `max(L, 1)` bytes in all (43_frame_emitter.md R161). -/
def wholeFrame : List Byte → Bool
  | [] => false
  | l :: body => body.length + 1 == footprint l

/-- The unread bytes are the bytes of `frames`, all complete, and then `tail`: the part of the frame the
FSM is storing, which starts at `fs`, or nothing (10_state.md R42 item 5). -/
structure Framed (c : Config) (s : State) (frames : List (List Byte)) (tail : List Byte) : Prop where
  whole : ∀ f ∈ frames, wholeFrame f = true
  cells : unreadCells c s = (frames.flatten ++ tail).map some
  storing : s.fsm = .capturingBody → s.discard = false →
    tail.length = s.cnt.toNat + 1 ∧ tail.head? = some s.len ∧
      s.fs = (s.rd + frames.flatten.length) % c.capacity
  notStoring : s.fsm = .awaitingLength ∨ s.discard = true → tail = []

/-- What holds in every reachable state: 10_state.md R42, the ring's canonical form, the order of the
clock samples (60_exceptions.md R232), and that `term` and `cause` agree (60_exceptions.md R229). -/
structure Consistent (c : Config) (s : State) : Prop where
  wr_lt : s.wr < c.capacity
  rd_lt : s.rd < c.capacity
  fs_lt : s.fs < c.capacity
  ring_wf : Memory.wf s.ring
  ring_lt : ∀ x ∈ s.ring, x.1 < c.capacity
  discard_capturing : s.discard = true → s.fsm = .capturingBody
  capturing : s.fsm = .capturingBody → 2 ≤ s.len.toNat ∧ s.cnt.toNat + 1 < s.len.toNat
  framed : ∃ frames tail, Framed c s frames tail ∧ (s.ready = false → frames = [])
  epoch_le : s.hdrDone = true → s.startEpoch ≤ s.lastNow
  term_cause : s.term = true ↔ s.cause ≠ .none

/-! The output stream (30_encoding.md R84 to R86). -/

/-- A frame record: some seconds, fewer than 1000000 microseconds, the lengths of a length byte, and a
payload of exactly `included_length` bytes (30_encoding.md R84, R85). -/
def IsRecord (c : Config) (r : List Byte) : Prop :=
  ∃ (sec : BitVec 32) (usec : Nat) (l : Byte) (payload : List Byte),
    usec < 1000000 ∧ payload.length = includedLength c l ∧
    r = le32 sec ++ le32 (BitVec.ofNat 32 usec) ++ le32 (BitVec.ofNat 32 (includedLength c l))
      ++ le32 (BitVec.ofNat 32 l.toNat) ++ payload

/-- The output of a session: nothing before HDR; then the global header and frame records, whole while
the session lasts and cut short at some byte where the sink has closed (30_encoding.md R86,
43_frame_emitter.md R181). -/
structure OutputShaped (c : Config) (s : State) : Prop where
  before_header : s.hdrDone = false → s.out = []
  stream : ∃ records : List (List Byte), (∀ r ∈ records, IsRecord c r) ∧
    s.out <+: globalHeader ++ records.flatten ∧
    (s.hdrDone = true → s.term = false → s.out = globalHeader ++ records.flatten)

/-! What a DRAIN emits, said from the frames instead of from the ring. -/

/-- The record of one frame at clock sample `t` (43_frame_emitter.md R162 to R166). -/
def recordFor (c : Config) (epoch t : Micros) : List Byte → List Byte
  | [] => []
  | l :: body =>
    le32 (BitVec.ofNat 32 ((t.toNat - epoch.toNat) / 1000000))
      ++ le32 (BitVec.ofNat 32 ((t.toNat - epoch.toNat) % 1000000))
      ++ le32 (BitVec.ofNat 32 (l.toNat - 1 - c.checksumWidth))
      ++ le32 (BitVec.ofNat 32 l.toNat)
      ++ body.take (l.toNat - 1 - c.checksumWidth)

/-- The records of a list of frames in order, one clock sample each, and the last sample
(43_frame_emitter.md R165, R170). -/
def recordsFor (c : Config) (epoch : Micros) : Micros → Nat → List (List Byte) → List Byte × Micros
  | now, _, [] => ([], now)
  | now, n, f :: fs =>
    let t := clockSample c now n
    let r := recordsFor c epoch t (n + 1) fs
    (recordFor c epoch t f ++ r.1, r.2)

/-- The state after a DRAIN has consumed `frames` and before it writes to the sink
(43_frame_emitter.md R160, R165, R167). -/
def drained (c : Config) (frames : List (List Byte)) (s : State) : State :=
  { s with
    rd := (s.rd + frames.flatten.length) % c.capacity
    lastNow := (recordsFor c s.startEpoch s.lastNow s.clockDraws frames).2
    clockDraws := s.clockDraws + frames.length
    ready := false }

/-! Runs of ING events. -/

/-- ING events for the given bytes, one after another (30_encoding.md R94, BYTES). -/
def feed (c : Config) (bs : List Byte) (s : State) : State :=
  bs.foldl (fun t b => ingNext c b t) s

/-! The inputs, and the end of a run. -/

/-- The bytes the byte source offers, in delivery order (20_memory.md R72, 60_exceptions.md R222). -/
def offeredBytes (inputs : List Input) : List Byte :=
  inputs.filterMap fun x =>
    match x with
    | .event w =>
      match decode w with
      | .ok (.ing b) => some b
      | _ => none
    | _ => none

/-- An event word of `i` is presented. -/
def presents (i : Instr) (inputs : List Input) : Prop :=
  ∃ w, Input.event w ∈ inputs ∧ decode w = .ok i

/-- A reserved word is presented (30_encoding.md R90). -/
def presentsReserved (inputs : List Input) : Prop :=
  ∃ w r, Input.event w ∈ inputs ∧ decode w = .error r

/-- Idle at the end of input: not terminated, HDR done, nothing ready, and the byte source offers neither
a byte nor its failure (60_exceptions.md R238 case (b)). -/
def idleAtEnd (s : State) : Prop :=
  s.term = false ∧ s.hdrDone = true ∧ s.ready = false ∧
    (∀ b, ¬ presents (.ing b) s.inputs) ∧ ¬ presents .srcerr s.inputs

/-- From step `n` on the byte source offers neither a byte nor its failure: it "will offer none"
(60_exceptions.md R238 case (b)). -/
def offersNoMore (e : Environment) (n : Nat) : Prop :=
  ∀ m, n ≤ m → e.newBytes m = [] ∧ Offer.sourceError ∉ e.offers m

/-- The run has ended at step `n`: terminated, or idle at the end of input (60_exceptions.md R238). -/
def ended (e : Environment) (n : Nat) (s : State) : Prop :=
  s.term = true ∨ (idleAtEnd s ∧ offersNoMore e n)

end Sys2Proof
end

