-- ==== Sys2Proof/Certificates/Slice0/Obligations.lean ====
section
/-! DEFINITION. The statements for the provers. `Config.machine` is the hardware: its N is any number from
2 on, so a statement about `exec` or `step` holds for every N. A statement over every configuration `c`
has the operations themselves as its subject, which `exec` calls at `Config.machine`. -/

open Sys2Proof Sys2Proof.Machine

/-! ## Encoding -/

/-- 95_test_vectors.md section 2.5, word by word. -/
def Obligations.SpecEventWordsDecode : Prop :=
  decode 0x000#10 = .ok (.ing 0x00#8) ∧ decode 0x0FF#10 = .ok (.ing 0xFF#8) ∧
  decode 0x100#10 = .ok .drain ∧ decode 0x101#10 = .error .drainData ∧
  decode 0x200#10 = .ok .srcerr ∧ decode 0x2FF#10 = .error .srcerrData ∧
  decode 0x300#10 = .error .kind3 ∧ decode 0x3FF#10 = .error .kind3

/-- 30_encoding.md R88: a word selects a row when it has the row's match under the row's mask, ING's
operand is ev[7:0], and no two rows match the same word. -/
def Obligations.DecodeSelectsTheMatchingRow : Prop :=
  (∀ (w : EventWord) (i : Instr),
    decode w = .ok i ↔ w &&& rowMask i = rowMatch i ∧ ∀ b, i = .ing b → b = w.extractLsb' 0 8) ∧
  ∀ (w : EventWord) (i j : Instr),
    w &&& rowMask i = rowMatch i → w &&& rowMask j = rowMatch j → rowMatch i = rowMatch j

/-- 30_encoding.md R87 to R89: decode and encode are inverse, for every instruction and every word that is
one. -/
def Obligations.DecodeAndEncodeAreInverse : Prop :=
  (∀ i : Instr, i.wf = true → decode (encode i) = .ok i) ∧
  (∀ (w : EventWord) (i : Instr), decode w = .ok i → i.wf = true ∧ encode i = w)

/-- 30_encoding.md R90: a word that matches no row lies in one of the three reserved ranges, every word in
them is refused under its range's name, and a step that takes one is refused. -/
def Obligations.ReservedWordsAreRefused : Prop :=
  (∀ w : EventWord,
    (∀ i, w &&& rowMask i ≠ rowMatch i) ↔
      (0x100 < w.toNat ∧ w.toNat < 0x200) ∨ (0x200 < w.toNat ∧ w.toNat < 0x300) ∨ 0x300 ≤ w.toNat) ∧
  (∀ w : EventWord, 0x100 < w.toNat → w.toNat < 0x200 → decode w = .error .drainData) ∧
  (∀ w : EventWord, 0x200 < w.toNat → w.toNat < 0x300 → decode w = .error .srcerrData) ∧
  (∀ w : EventWord, 0x300 ≤ w.toNat → decode w = .error .kind3) ∧
  (∀ (w : EventWord) (r : ReservedWord) (rest : List Input) (s : State),
    decode w = .error r → s.inputs = .event w :: rest → step s = .refused (.reservedEvent r))

/-- 30_encoding.md R94: FRAME with k operands is an ING of k + 1 and then one ING per operand, FRAME with
none is `ING 1`, BYTES is one ING per operand, and more than 254 operands of FRAME are rejected. -/
def Obligations.PseudoInstructionsExpand : Prop :=
  (∀ ns : List Nat, ns ≠ [] → (∀ n ∈ ns, n ≤ 255) →
    (⟨.bytes, ns⟩ : AsmLine).expand = some (ns.map fun n => .ing (BitVec.ofNat 8 n))) ∧
  (∀ ns : List Nat, (∀ n ∈ ns, n ≤ 255) → ns.length ≤ 254 →
    (⟨.frame, ns⟩ : AsmLine).expand =
      some (.ing (BitVec.ofNat 8 (ns.length + 1)) :: ns.map fun n => .ing (BitVec.ofNat 8 n))) ∧
  (⟨.frame, []⟩ : AsmLine).expand = some [.ing 1] ∧
  (∀ ns : List Nat, 254 < ns.length → (⟨.frame, ns⟩ : AsmLine).expand = none)

/-- 30_encoding.md R93: every word the assembler makes is one the decoder accepts, whatever the text. -/
def Obligations.AssembledWordsDecode : Prop :=
  ∀ (text : List (List Char)) (ws : List EventWord), assemble text = .ok ws →
    ∀ w ∈ ws, ∃ i, decode w = .ok i ∧ encode i = w

/-- 30_encoding.md R83, with R13's le16 and le32: the global header's byte image. -/
def Obligations.GlobalHeaderImage : Prop :=
  globalHeader =
    [0xD4, 0xC3, 0xB2, 0xA1, 0x02, 0x00, 0x04, 0x00, 0x00, 0x00, 0x00, 0x00,
     0x00, 0x00, 0x00, 0x00, 0xFF, 0xFF, 0x00, 0x00, 0xC3, 0x00, 0x00, 0x00]

/-- 20_memory.md R62: a multi-byte field is written with its least significant byte first. -/
def Obligations.FieldsAreLittleEndian : Prop :=
  (∀ v : BitVec 16, ∃ b0 b1 : Byte, le16 v = [b0, b1] ∧ v.toNat = b0.toNat + 256 * b1.toNat) ∧
  (∀ v : BitVec 32, ∃ b0 b1 b2 b3 : Byte, le32 v = [b0, b1, b2, b3] ∧
    v.toNat = b0.toNat + 256 * b1.toNat + 65536 * b2.toNat + 16777216 * b3.toNat)

/-! ## The step -/

/-- An enabled event at the front of the inputs is consumed and executed, with the scheduler's count of it,
unless it is an ING and a DRAIN is due: then the DRAIN is executed and nothing is consumed (00_scope.md R14,
20_memory.md R67, 60_exceptions.md R237; the list of inputs and the count are the model's, log 4, log 19). -/
def Obligations.StepRunsTheDecodedEvent : Prop :=
  ∀ (w : EventWord) (i : Instr) (rest : List Input) (s : State),
    s.inputs = .event w :: rest → decode w = .ok i → enabled i s = true →
      (givesWay i = false ∨ drainDue Config.machine s = false →
        step s = exec i (countTurn i { s with inputs := rest })) ∧
      (givesWay i = true → drainDue Config.machine s = true →
        step s = exec .drain (countTurn .drain s)) ∧
      (∀ (j : Instr) (t : State), countTurn j t =
        { t with drainWait := (countTurn j t).drainWait, drainTurns := (countTurn j t).drainTurns })

/-- 20_memory.md R72: a step consumes the head of the input stream or nothing of it; an ING that is not
enabled is no step and leaves its byte at the head. -/
def Obligations.InputIsConsumedInDeliveryOrder : Prop :=
  (∀ s t : State, step s = .next t → offeredBytes t.inputs = offeredBytes s.inputs ∨
    ∃ b, offeredBytes s.inputs = b :: offeredBytes t.inputs ∧
      ingEnabled s = true ∧ ∃ rest, t = ingNext Config.machine b (countTurn (.ing b) { s with inputs := rest })) ∧
  (∀ s t : State, ingEnabled s = false → step s = .next t →
    offeredBytes t.inputs = offeredBytes s.inputs)

/-- An event that is not enabled is not taken and not consumed: it stays at the front (00_scope.md R14;
that FRCE then stays as it is or takes another step is the model's reading, log 2). -/
def Obligations.EventNotEnabledStaysAtTheFront : Prop :=
  (∀ (i : Instr) (s : State), enabled i s = false → exec i s = .next s) ∧
  (∀ (w : EventWord) (i : Instr) (rest : List Input) (s t : State),
    s.inputs = .event w :: rest → decode w = .ok i → enabled i s = false → step s = .next t →
      ∃ rest', t.inputs = .event w :: rest')

/-- 70_reset_and_hazards.md R263, 43_frame_emitter.md R180: where HDR is enabled, a step is HDR, an SRCERR
or a RESET, and it is HDR where no SRCERR and no RESET is presented. -/
def Obligations.HeaderComesBeforeAnyEvent : Prop :=
  (∀ s t : State, headerEnabled s = true → step s = .next t →
    ∃ rest, t = headerNext Config.machine { s with inputs := rest } ∨
      t = terminate .sourceUnavailable { s with inputs := rest } ∨
      t = resetNext { s with inputs := rest }) ∧
  (∀ s : State, headerEnabled s = true → ¬ presents .srcerr s.inputs → ¬ presentsReserved s.inputs →
    .reset ∉ s.inputs →
      ∃ rest, step s = .next (headerNext Config.machine { s with inputs := rest }))

/-- Without inputs FRCE's own agents move: HDR where it is enabled, else DRAIN where it is enabled, else
nothing (43_frame_emitter.md R180, 60_exceptions.md R235, R237; the choice is the model's, log 5). -/
def Obligations.QuietMachineMovesByItself : Prop :=
  ∀ s : State, s.inputs = [] →
    (headerEnabled s = true → step s = .next (headerNext Config.machine s)) ∧
    (drainEnabled s = true → step s = exec .drain (countTurn .drain s)) ∧
    (headerEnabled s = false → drainEnabled s = false → step s = .next s)

/-- 60_exceptions.md R230: after termination no event changes anything, a RESET is taken, and without one
the machine stays as it is whatever is presented. -/
def Obligations.TerminatedStateIsFinal : Prop :=
  ∀ s : State, s.term = true →
    (∀ i : Instr, exec i s = .next s) ∧
    (.reset ∉ s.inputs → ¬ presentsReserved s.inputs → step s = .next s) ∧
    (∀ pre post : List Input, s.inputs = pre ++ .reset :: post → .reset ∉ pre →
      ¬ presentsReserved pre → step s = .next (resetNext { s with inputs := pre ++ post }))

/-- 60_exceptions.md R238: no step at all is enabled exactly where no RESET and no reserved word is
presented and the machine is terminated or idle at the end of input; and a run that has so ended stays as it
is for ever, whatever else is put forward, unless a RESET is. The statement leaves open what waits in the
inputs; that such a run goes on, and stays where it is, is the model's (log 2, log 18). -/
def Obligations.RunEndsTerminatedOrIdle : Prop :=
  (∀ s : State, pick Config.machine s = .wait ↔
    (.reset ∉ s.inputs ∧ ¬ presentsReserved s.inputs ∧ (s.term = true ∨ idleAtEnd s))) ∧
  (∀ (e : Environment) (run : Nat → State) (n : Nat), IsRun e run → ended e n (run n) →
    .reset ∉ (run n).inputs → ¬ presentsReserved (run n).inputs →
    (∀ m, n ≤ m → .reset ∉ e.offers m) →
      ∀ m, n ≤ m → run m = { run n with inputs := (run m).inputs })

/-! ## Reset -/

/-- 70_reset_and_hazards.md R261: the values the spec gives for reset. -/
def Obligations.ResetValues : Prop :=
  State.reset.fsm = .awaitingLength ∧ State.reset.len = 0 ∧ State.reset.cnt = 0 ∧
  State.reset.wr = 0 ∧ State.reset.rd = 0 ∧ State.reset.fs = 0 ∧
  (∀ i, Memory.read State.reset.ring i = none) ∧
  State.reset.discard = false ∧ State.reset.ready = false ∧ State.reset.hdrDone = false ∧
  State.reset.ovr = false ∧ State.reset.fi = false ∧ State.reset.term = false ∧
  State.reset.cause = .none ∧ State.reset.out = [] ∧ status State.reset = 0x0000#16

/-- 70_reset_and_hazards.md R260: RESET is taken in every state, gives every register its reset value and
every ring cell no value, and leaves with the byte source what it offered. -/
def Obligations.ResetIsTakenInEveryState : Prop :=
  ∀ (s : State) (rest : List Input), s.inputs = .reset :: rest → ∃ t, step s = .next t ∧
      t.fsm = .awaitingLength ∧ t.len = 0 ∧ t.cnt = 0 ∧ t.wr = 0 ∧ t.rd = 0 ∧ t.fs = 0 ∧
      t.discard = false ∧ t.ready = false ∧ t.hdrDone = false ∧ t.ovr = false ∧ t.fi = false ∧
      t.term = false ∧ t.cause = .none ∧ (∀ i, Memory.read t.ring i = none) ∧ t.out = [] ∧
      t.inputs = rest

/-! ## ING -/

/-- 41_reassembly_fsm.md R111 (and R114): the length byte, in every state of AwaitingLength in which ING is
enabled. -/
def Obligations.IngLengthByte : Prop :=
  ∀ (b : Byte) (s : State), ingEnabled s = true → s.fsm = .awaitingLength →
    (bytesAvailable Config.machine s ≠ Config.machine.capacity - 1 → exec (.ing b) s = .next { s with
      len := b, cnt := 0, fs := s.wr
      ring := Memory.write s.ring s.wr b
      wr := (s.wr + 1) % Config.machine.capacity
      fsm := if b.toNat ≤ 1 then .awaitingLength else .capturingBody
      discard := false
      ready := if b.toNat ≤ 1 then true else s.ready }) ∧
    (bytesAvailable Config.machine s = Config.machine.capacity - 1 → exec (.ing b) s = .next { s with
      len := b, cnt := 0, fs := s.wr, ovr := true, fi := true
      fsm := if b.toNat ≤ 1 then .awaitingLength else .capturingBody
      discard := decide (2 ≤ b.toNat) })

/-- 41_reassembly_fsm.md R112: a body byte that is not discarded. The premise `cnt + 2 <= len` is
10_state.md R42 item 4. -/
def Obligations.IngBodyByte : Prop :=
  ∀ (b : Byte) (s : State), ingEnabled s = true → s.fsm = .capturingBody → s.discard = false →
    s.cnt.toNat + 2 ≤ s.len.toNat →
    (bytesAvailable Config.machine s ≠ Config.machine.capacity - 1 → exec (.ing b) s = .next { s with
      ring := Memory.write s.ring s.wr b
      wr := (s.wr + 1) % Config.machine.capacity
      cnt := s.cnt + 1
      fsm := if s.cnt.toNat + 2 = s.len.toNat then .awaitingLength else .capturingBody
      ready := if s.cnt.toNat + 2 = s.len.toNat then true else s.ready }) ∧
    (bytesAvailable Config.machine s = Config.machine.capacity - 1 → exec (.ing b) s = .next { s with
      wr := s.fs, ovr := true, fi := true
      cnt := s.cnt + 1
      fsm := if s.cnt.toNat + 2 = s.len.toNat then .awaitingLength else .capturingBody
      discard := decide (s.cnt.toNat + 2 < s.len.toNat) })

/-- 41_reassembly_fsm.md R113: a body byte of a dropped frame. The premise `cnt + 2 <= len` is 10_state.md
R42 item 4. -/
def Obligations.IngDiscardedByte : Prop :=
  ∀ (b : Byte) (s : State), ingEnabled s = true → s.fsm = .capturingBody → s.discard = true →
    s.cnt.toNat + 2 ≤ s.len.toNat →
    exec (.ing b) s = .next { s with
      cnt := s.cnt + 1
      fsm := if s.cnt.toNat + 2 = s.len.toNat then .awaitingLength else .capturingBody
      discard := decide (s.cnt.toNat + 2 < s.len.toNat) }

/-- ING's frame (10_state.md R40, 20_memory.md R64): what no ING changes, in any state, that it stores at
`wr` or nowhere, and where it stores nothing. -/
def Obligations.IngFrame : Prop :=
  ∀ (b : Byte) (s t : State), exec (.ing b) s = .next t →
    t.rd = s.rd ∧ t.hdrDone = s.hdrDone ∧ t.startEpoch = s.startEpoch ∧ t.lastNow = s.lastNow ∧
    t.term = s.term ∧ t.cause = s.cause ∧ t.out = s.out ∧ t.inputs = s.inputs ∧
    t.clockDraws = s.clockDraws ∧ t.sinkDraws = s.sinkDraws ∧
    t.drainWait = s.drainWait ∧ t.drainTurns = s.drainTurns ∧
    (s.ready = true → t.ready = true) ∧ (s.ovr = true → t.ovr = true) ∧ (s.fi = true → t.fi = true) ∧
    (∀ a, a ≠ s.wr → Memory.read t.ring a = Memory.read s.ring a) ∧
    (ingEnabled s = false ∨ bytesAvailable Config.machine s = Config.machine.capacity - 1 ∨
        (s.fsm = .capturingBody ∧ s.discard = true) →
      ∀ a, Memory.read t.ring a = Memory.read s.ring a)

/-- 60_exceptions.md R227: no unread byte is ever overwritten by an ING, stored or overrunning. -/
def Obligations.IngOverwritesNoUnreadByte : Prop :=
  ∀ (b : Byte) (s t : State), s.wr < Config.machine.capacity → s.rd < Config.machine.capacity →
    exec (.ing b) s = .next t → ∀ k, k < bytesAvailable Config.machine s →
      Memory.read t.ring (unreadIndex Config.machine t k) =
        Memory.read s.ring (unreadIndex Config.machine s k)

/-- 41_reassembly_fsm.md R117: a frame with length byte L >= 2 is complete after exactly L ING steps, and
if it is stored whole it occupies L consecutive cells, mod N, from `fs`. -/
def Obligations.FrameIsStoredWhole : Prop :=
  ∀ (c : Config) (l : Byte) (body : List Byte) (s : State), c.wf →
    s.wr < c.capacity → s.rd < c.capacity → ingEnabled s = true → s.fsm = .awaitingLength →
    2 ≤ l.toNat → body.length + 1 = l.toNat → bytesAvailable c s + l.toNat ≤ c.capacity - 1 →
    (∀ k, 0 < k → k < l.toNat → (feed c ((l :: body).take k) s).fsm = .capturingBody) ∧
    (let t := feed c (l :: body) s
     t.fsm = .awaitingLength ∧ t.discard = false ∧ t.ready = true ∧ t.fs = s.wr ∧
     t.ovr = s.ovr ∧ t.fi = s.fi ∧ t.rd = s.rd ∧
     t.wr = (s.wr + l.toNat) % c.capacity ∧
     bytesAvailable c t = bytesAvailable c s + l.toNat ∧
     (∀ (k : Nat) (h : k < (l :: body).length),
       Memory.read t.ring ((t.fs + k) % c.capacity) = some (l :: body)[k]) ∧
     (∀ k, k < bytesAvailable c s →
       Memory.read t.ring (unreadIndex c t k) = Memory.read s.ring (unreadIndex c s k)))

/-- 41_reassembly_fsm.md R118, 60_exceptions.md R227: a frame for which the ring has too little room is
dropped whole, its length byte's count is kept, and the unread bytes are those from before. -/
def Obligations.FrameWithoutRoomIsDropped : Prop :=
  ∀ (c : Config) (l : Byte) (body : List Byte) (s : State), c.wf →
    s.wr < c.capacity → s.rd < c.capacity → ingEnabled s = true → s.fsm = .awaitingLength →
    body.length + 1 = max l.toNat 1 → c.capacity - 1 < bytesAvailable c s + max l.toNat 1 →
    let t := feed c (l :: body) s
    t.fsm = .awaitingLength ∧ t.discard = false ∧ t.ready = s.ready ∧ t.ovr = true ∧ t.fi = true ∧
    t.wr = s.wr ∧ t.rd = s.rd ∧
    ∀ k, k < bytesAvailable c s →
      Memory.read t.ring (unreadIndex c t k) = Memory.read s.ring (unreadIndex c s k)

/-! ## The ring buffer's operations -/

/-- 42_ring_buffer.md R140: a push into a full ring is refused and writes nothing; any other stores its
byte at `wr`, advances `wr` by one mod N and leaves one more byte unread. -/
def Obligations.PushStoresOrRefuses : Prop :=
  ∀ (c : Config) (b : Byte) (s : State), c.wf → s.wr < c.capacity → s.rd < c.capacity →
    (bytesAvailable c s = c.capacity - 1 → push c b s = (false, s)) ∧
    (bytesAvailable c s ≠ c.capacity - 1 → ∃ t, push c b s = (true, t) ∧
      t = { s with ring := t.ring, wr := if s.wr = c.capacity - 1 then 0 else s.wr + 1 } ∧
      bytesAvailable c t = bytesAvailable c s + 1 ∧
      ∀ a, Memory.read t.ring a = if a = s.wr then some b else Memory.read s.ring a)

/-- 42_ring_buffer.md R141: bytes_available() equals (wr - rd) mod N in every case, and lies in 0..N-1. -/
def Obligations.AvailableIsDifferenceModN : Prop :=
  ∀ (c : Config) (s : State), s.wr < c.capacity → s.rd < c.capacity →
    (bytesAvailable c s : Int) = ((s.wr : Int) - (s.rd : Int)) % (c.capacity : Int) ∧
    bytesAvailable c s ≤ c.capacity - 1

/-- 42_ring_buffer.md R142: peek_at reads the unread byte at its offset, wrapping at N, and faults on an
offset that holds no unread byte. -/
def Obligations.PeekReadsTheUnreadByte : Prop :=
  ∀ (c : Config) (k : Nat) (s : State), s.rd < c.capacity → k < c.capacity →
    (∀ v, k < bytesAvailable c s →
      Memory.read s.ring (if s.rd + k < c.capacity then s.rd + k else s.rd + k - c.capacity) = some v →
        peekAt c k s = .ok v) ∧
    (bytesAvailable c s ≤ k → peekAt c k s = .error (.peekBeyondUnread k))

/-- 42_ring_buffer.md R143: advance_read(n) consumes `n` unread bytes, changes only `rd`, and faults on
more than are unread. -/
def Obligations.AdvanceReadConsumes : Prop :=
  ∀ (c : Config) (n : Nat) (s : State), s.wr < c.capacity → s.rd < c.capacity →
    (n ≤ bytesAvailable c s → ∃ t, advanceRead c n s = .ok t ∧
      t = { s with rd := (s.rd + n) % c.capacity } ∧
      bytesAvailable c t + n = bytesAvailable c s) ∧
    (bytesAvailable c s < n → advanceRead c n s = .error (.advanceBeyondUnread n))

/-- 42_ring_buffer.md R144: rollback sets `wr` to `fs`, and while a frame is being stored it leaves exactly
the bytes of the complete frames unread. -/
def Obligations.RollbackLeavesTheCompleteFrames : Prop :=
  ∀ (c : Config) (s : State) (frames : List (List Byte)) (tail : List Byte),
    Consistent c s → Framed c s frames tail → s.fsm = .capturingBody → s.discard = false →
    rollback s = { s with wr := s.fs } ∧
    bytesAvailable c (rollback s) = frames.flatten.length ∧
    unreadCells c (rollback s) = frames.flatten.map some

/-- From any state whose cells are in canonical form, a step leaves them so (10_state.md R26; the form is
the model's, log 12). -/
def Obligations.StepKeepsCellsCanonical : Prop :=
  ∀ s t : State, Memory.wf s.ring → step s = .next t → Memory.wf t.ring

/-! ## DRAIN -/

/-- 43_frame_emitter.md R160, R166, R170: one DRAIN emits one record for each complete frame at the head of
the ring, in order, each at one clock sample, consumes exactly those frames, clears `ready`, and offers
the records to the sink in one write. -/
def Obligations.DrainEmitsEveryCompleteFrame : Prop :=
  ∀ (s : State) (frames : List (List Byte)) (tail : List Byte),
    Consistent Config.machine s → Framed Config.machine s frames tail → drainEnabled s = true →
    exec .drain s = .next (sinkWrite Config.machine
      (recordsFor Config.machine s.startEpoch s.lastNow s.clockDraws frames).1
      (drained Config.machine frames s))

/-- 43_frame_emitter.md R169: with an empty ring DRAIN stops at once, reads no cell and asks the sink
nothing. -/
def Obligations.DrainOfAnEmptyRing : Prop :=
  ∀ s : State, drainEnabled s = true → bytesAvailable Config.machine s = 0 →
    exec .drain s = .next { s with ready := false }

/-- 43_frame_emitter.md R168: a head frame with fewer unread bytes than its footprint is not emitted, and
sets `fi` unless the FSM is still reassembling it; in a consistent state no DRAIN sets `fi`. -/
def Obligations.DrainWaitsForAShortHeadFrame : Prop :=
  (∀ (s : State) (l : Byte), drainEnabled s = true → 0 < bytesAvailable Config.machine s →
    Memory.read s.ring (unreadIndex Config.machine s 0) = some l →
    bytesAvailable Config.machine s < max l.toNat 1 →
    exec .drain s = .next { s with
      ready := false
      fi := if s.fsm = .capturingBody ∧ s.discard = false ∧ s.rd = s.fs then s.fi else true }) ∧
  (∀ s t : State, Consistent Config.machine s → exec .drain s = .next t → t.fi = s.fi)

/-- DRAIN's frame (10_state.md R40, 20_memory.md R64): what no DRAIN changes, in any state; it stores
nothing in the ring, only adds to the output, and leaves `ready` at 0. -/
def Obligations.DrainFrame : Prop :=
  ∀ s t : State, exec .drain s = .next t →
    t.fsm = s.fsm ∧ t.len = s.len ∧ t.cnt = s.cnt ∧ t.wr = s.wr ∧ t.fs = s.fs ∧
    t.discard = s.discard ∧ t.hdrDone = s.hdrDone ∧ t.startEpoch = s.startEpoch ∧ t.ovr = s.ovr ∧
    t.inputs = s.inputs ∧ t.drainWait = s.drainWait ∧ t.drainTurns = s.drainTurns ∧
    (s.fi = true → t.fi = true) ∧ (∀ a, Memory.read t.ring a = Memory.read s.ring a) ∧
    (∃ bs, t.out = s.out ++ bs) ∧ s.lastNow ≤ t.lastNow ∧
    (drainEnabled s = true → t.ready = false) ∧ (drainEnabled s = false → t = s)

/-- 43_frame_emitter.md R166, R167: emit_one's record and state, from the cells of the ring. The premise is
60_exceptions.md R232's promise, an invariant of `Consistent`. -/
def Obligations.EmitOneEncodesTheHeadFrame : Prop :=
  ∀ (c : Config) (s t : State) (r : List Byte), s.startEpoch ≤ s.lastNow → emitOne c s = .ok (r, t) →
    ∃ (l : Byte) (payload : List Byte),
      Memory.read s.ring (unreadIndex c s 0) = some l ∧
      payload.length = max l.toNat 1 - 1 - c.checksumWidth ∧
      (∀ (k : Nat) (h : k < payload.length),
        Memory.read s.ring (unreadIndex c s (k + 1)) = some payload[k]) ∧
      r = le32 (BitVec.ofNat 32 ((t.lastNow.toNat - s.startEpoch.toNat) / 1000000))
        ++ le32 (BitVec.ofNat 32 ((t.lastNow.toNat - s.startEpoch.toNat) % 1000000))
        ++ le32 (BitVec.ofNat 32 payload.length) ++ le32 (BitVec.ofNat 32 l.toNat) ++ payload ∧
      t = { s with
        rd := (s.rd + max l.toNat 1) % c.capacity
        lastNow := clockSample c s.lastNow s.clockDraws
        clockDraws := s.clockDraws + 1 }

/-- 43_frame_emitter.md R162: included_length. -/
def Obligations.IncludedLengthFormula : Prop :=
  ∀ (c : Config) (l : Byte),
    (1 + c.checksumWidth ≤ l.toNat → includedLength c l = l.toNat - 1 - c.checksumWidth) ∧
    (l.toNat < 1 + c.checksumWidth → includedLength c l = 0)

/-- 30_encoding.md R85: the ranges of a record's fields. -/
def Obligations.RecordFieldRanges : Prop :=
  ∀ (c : Config) (l : Byte) (e : Nat), c.wf →
    includedLength c l ≤ 254 - c.checksumWidth ∧ (originalLength l).toNat ≤ 255 ∧
    (microseconds e).toNat ≤ 999999 ∧ includedLength c l ≤ 65535 ∧
    (originalLength l).toNat = l.toNat ∧
    includedLength c l ≤ (originalLength l).toNat ∧
    (includedLength c l = (originalLength l).toNat ↔
      includedLength c l = 0 ∧ (originalLength l).toNat = 0)

/-- 43_frame_emitter.md R164: the timestamp fields. -/
def Obligations.TimestampFields : Prop :=
  ∀ epoch t : Micros, epoch ≤ t →
    elapsed epoch t + epoch.toNat = t.toNat ∧
    (seconds (elapsed epoch t)).toNat = ((t.toNat - epoch.toNat) / 1000000) % 2 ^ 32 ∧
    (microseconds (elapsed epoch t)).toNat = (t.toNat - epoch.toNat) % 1000000

/-- 43_frame_emitter.md R165: emit_one samples the clock exactly once, the sample becomes `last_now` and is
at least the one before, so consecutive records' times do not decrease. The premise is 60_exceptions.md
R232's promise, an invariant of `Consistent`. -/
def Obligations.TimestampsDoNotDecrease : Prop :=
  ∀ (c : Config) (s t u : State) (r1 r2 : List Byte), s.startEpoch ≤ s.lastNow →
    emitOne c s = .ok (r1, t) → emitOne c t = .ok (r2, u) →
    t.clockDraws = s.clockDraws + 1 ∧ u.clockDraws = s.clockDraws + 2 ∧
    t.lastNow = clockSample c s.lastNow s.clockDraws ∧
    u.lastNow = clockSample c t.lastNow t.clockDraws ∧
    s.lastNow ≤ t.lastNow ∧ t.lastNow ≤ u.lastNow ∧
    elapsed t.startEpoch t.lastNow ≤ elapsed u.startEpoch u.lastNow

/-! ## The environment's answers, HDR, SRCERR -/

/-- 60_exceptions.md R232: a clock sample is at least the floor it is drawn against, and any such value can
be the sample. -/
def Obligations.ClockSampleIsFreeAboveTheLast : Prop :=
  ∀ (c : Config) (last : Micros) (n : Nat),
    last ≤ clockSample c last n ∧
    ∀ t : Micros, last ≤ t → ∃ clock, clockSample { c with clock := clock } last n = t

/-- 60_exceptions.md R223, R225: an empty write asks the sink nothing; any other write has the sink accept
a part from the front, of any length, and terminates the session with SinkClosed if that is not all. -/
def Obligations.SinkAcceptsAnyFrontPart : Prop :=
  (∀ (c : Config) (s : State), sinkWrite c [] s = s) ∧
  (∀ (c : Config) (bs : List Byte) (s : State), bs ≠ [] → ∃ k, k ≤ bs.length ∧
    sinkWrite c bs s = { s with
      out := s.out ++ bs.take k
      sinkDraws := s.sinkDraws + 1
      term := if k < bs.length then true else s.term
      cause := if k < bs.length then .sinkClosed else s.cause }) ∧
  (∀ (c : Config) (bs : List Byte) (s : State) (k : Nat), bs ≠ [] → k ≤ bs.length → ∃ sink,
    (sinkWrite { c with sink := sink } bs s).out = s.out ++ bs.take k)

/-- 43_frame_emitter.md R180: HDR samples the clock once into `start_epoch` and `last_now`, sets `hdr_done`
and offers the global header to the sink; it changes nothing else. -/
def Obligations.HeaderStepStartsTheSession : Prop :=
  ∀ (s : State) (rest : List Input), headerEnabled s = true → s.inputs = .header :: rest →
    ∃ (t : Micros) (k : Nat), k ≤ 24 ∧ t = clockSample Config.machine 0 s.clockDraws ∧
      step s = .next { s with
        inputs := rest, startEpoch := t, lastNow := t, hdrDone := true
        clockDraws := s.clockDraws + 1, sinkDraws := s.sinkDraws + 1
        out := s.out ++ globalHeader.take k
        term := decide (k < 24)
        cause := if k < 24 then .sinkClosed else s.cause }

/-- 60_exceptions.md R224, R229: SRCERR terminates the session with SourceUnavailable in every state in
which it has not ended, and changes nothing else: the frames in the ring are not emitted. -/
def Obligations.SrcerrTerminates : Prop :=
  ∀ s : State, s.term = false →
    exec .srcerr s = .next { s with term := true, cause := .sourceUnavailable }

/-! ## Status outputs -/

/-- 10_state.md R38: the STATUS word, field by field. -/
def Obligations.StatusWordLayout : Prop :=
  ∀ s : State,
    (status s).getLsbD 0 = decide (s.fsm = .capturingBody) ∧
    (status s).getLsbD 1 = s.discard ∧ (status s).getLsbD 2 = s.ready ∧
    (status s).getLsbD 3 = s.hdrDone ∧ (status s).getLsbD 4 = s.ovr ∧
    (status s).getLsbD 5 = s.fi ∧ (status s).getLsbD 6 = s.term ∧
    (status s).extractLsb' 7 2 =
      (match s.cause with
        | .none => 0#2
        | .sourceUnavailable => 1#2
        | .sinkClosed => 2#2) ∧
    (status s).extractLsb' 9 7 = 0#7

/-- 10_state.md R39, 00_scope.md R8: IW bits hold every cursor and the occupancy, so the outputs WR, RD and
AVAIL lose nothing. -/
def Obligations.StatusOutputsLoseNothing : Prop :=
  ∀ (c : Config) (s : State), c.wf → s.wr < c.capacity → s.rd < c.capacity →
    (statusOutputs c s).len = s.len ∧ (statusOutputs c s).cnt = s.cnt ∧
    (statusOutputs c s).wr.toNat = s.wr ∧ (statusOutputs c s).rd.toNat = s.rd ∧
    (statusOutputs c s).avail.toNat = bytesAvailable c s

/-! ## Whole-machine rules -/

/-- 10_state.md R42 at reset. -/
def Obligations.ResetIsConsistent : Prop := Consistent Config.machine State.reset

/-- 10_state.md R42: every step keeps the invariants of reachable states. -/
def Obligations.StepKeepsConsistent : Prop :=
  ∀ s t : State, Consistent Config.machine s → step s = .next t → Consistent Config.machine t

/-- 30_encoding.md R86, 43_frame_emitter.md R181 at reset. -/
def Obligations.ResetOutputIsShaped : Prop := OutputShaped Config.machine State.reset

/-- 30_encoding.md R86, 43_frame_emitter.md R181: every step keeps the output stream a global header and
frame records, cut short only where the session has terminated. -/
def Obligations.StepKeepsOutputShaped : Prop :=
  ∀ s t : State, OutputShaped Config.machine s → step s = .next t → OutputShaped Config.machine t

/-- 70_reset_and_hazards.md R269: from a consistent state no step faults, so no unwritten cell is read, and
only a reserved word that is presented is refused. -/
def Obligations.ConsistentStepNeverFaults : Prop :=
  ∀ s : State, Consistent Config.machine s →
    (∀ f, step s ≠ .fault f) ∧
    (∀ r, step s = .refused r → ∃ w name, Input.event w ∈ s.inputs ∧ decode w = .error name ∧
      r = .reservedEvent name)

/-- 10_state.md R33, R34: no step but RESET clears the sticky flags. -/
def Obligations.StickyFlagsStay : Prop :=
  ∀ s t : State, step s = .next t → (∃ rest, t = resetNext { s with inputs := rest }) ∨
    ((s.ovr = true → t.ovr = true) ∧ (s.fi = true → t.fi = true))

/-- 10_state.md R40, R21, R25: only ING and RESET move the FSM and the write cursor, and only DRAIN and
RESET the read cursor. -/
def Obligations.OnlyIngMovesTheFsm : Prop :=
  ∀ s t : State, step s = .next t →
    (t.fsm ≠ s.fsm ∨ t.wr ≠ s.wr → ∃ rest, t = resetNext { s with inputs := rest } ∨
      ∃ b, t = ingNext Config.machine b (countTurn (.ing b) { s with inputs := rest })) ∧
    (t.rd ≠ s.rd → ∃ rest, t = resetNext { s with inputs := rest } ∨
      exec .drain (countTurn .drain { s with inputs := rest }) = .next t)

/-- 10_state.md R30, R31: once HDR has run, no step but RESET clears `hdr_done` or changes
`start_epoch`. -/
def Obligations.HeaderIsWrittenOnce : Prop :=
  ∀ s t : State, s.hdrDone = true → step s = .next t →
    (∃ rest, t = resetNext { s with inputs := rest }) ∨
    (t.hdrDone = true ∧ t.startEpoch = s.startEpoch)

/-- 10_state.md R36: bytes are never removed from the output or reordered, except that RESET starts a new
stream. -/
def Obligations.OutputOnlyGrows : Prop :=
  ∀ s t : State, step s = .next t →
    (∃ rest, t = resetNext { s with inputs := rest }) ∨ ∃ bs, t.out = s.out ++ bs

/-- 60_exceptions.md R228, R229, R230: `term` goes from 0 to 1 only by SRCERR or by a sink that does not
take all that HDR or DRAIN offers it, and `cause` says which. -/
def Obligations.TerminationHasItsCause : Prop :=
  ∀ s t : State, s.term = false → step s = .next t → t.term = true →
    (t.cause = .sourceUnavailable ∧ t.out = s.out ∧ presents .srcerr s.inputs) ∨
    (t.cause = .sinkClosed ∧ t.sinkDraws = s.sinkDraws + 1 ∧ t.hdrDone = true)

/-! ## Runs -/

/-- 43_frame_emitter.md R171, R170: frames fed into an empty ring that holds them all are emitted by the
next DRAIN, each as exactly one record, in input order, and nothing is left unread. -/
def Obligations.EveryStoredFrameIsEmittedOnce : Prop :=
  ∀ (c : Config) (s : State) (frames : List (List Byte)), c.wf → Consistent c s →
    ingEnabled s = true → s.fsm = .awaitingLength → bytesAvailable c s = 0 →
    frames ≠ [] → (∀ f ∈ frames, wholeFrame f = true) → frames.flatten.length ≤ c.capacity - 1 →
    let t := feed c frames.flatten s
    t.ovr = s.ovr ∧ drainWith c t = .next (sinkWrite c
      (recordsFor c s.startEpoch s.lastNow s.clockDraws frames).1 (drained c frames t)) ∧
    bytesAvailable c (drained c frames t) = 0

/-- 60_exceptions.md R237: where nothing overruns and the sink takes everything, a DRAIN taken before some
input changes neither the output nor the cursors that one DRAIN after all of it leaves. -/
def Obligations.OutputIsScheduleIndependent : Prop :=
  ∀ (c : Config) (s t u v w : State) (bs : List Byte), c.wf → Consistent c s → drainEnabled s = true →
    s.ovr = false → (feed c bs s).ovr = false →
    drainWith c (feed c bs s) = .next u → u.term = false →
    drainWith c s = .next t → t.term = false → v = feed c bs t →
    (if v.ready then drainWith c v = .next w else w = v) → w.term = false →
    w.out = u.out ∧ w.wr = u.wr ∧ w.rd = u.rd ∧ w.fsm = u.fsm ∧ w.lastNow = u.lastNow

/-- 60_exceptions.md R222, 20_memory.md R72: in every infinite run, whatever its environment and its byte
source, finite or infinite, the bytes consumed by then and the bytes that wait are the bytes that waited at
the start and the front of the source that has become available, in order. -/
def Obligations.RunConsumesTheSourceInOrder : Prop :=
  ∀ (e : Environment) (run : Nat → State), IsRun e run → ∀ n,
    offeredBytes (run 0).inputs ++ e.source.take (e.available n) =
      consumedBytes e run n ++ offeredBytes (run n).inputs

/-- 60_exceptions.md R237: in every infinite run, also one whose byte source never stops, a DRAIN that is
enabled is taken unless an SRCERR or a RESET is taken first, and only ING steps go before it. How many may go
before it is the free bound of log 19. -/
def Obligations.EveryRunIsWeaklyFair : Prop :=
  ∀ (e : Environment) (run : Nat → State) (n : Nat), IsRun e run → drainEnabled (run n) = true →
    ∃ m, n ≤ m ∧
      m ≤ n + (Config.machine.patience (run n).drainTurns + 1 - (run n).drainWait) ∧
      (∀ k, n ≤ k → k < m → ∃ b s, actionAt e run k = .run (.ing b) s) ∧
      ((∃ s, actionAt e run m = .run .drain s ∧ (run (m + 1)).ready = false) ∨
        (∃ s, actionAt e run m = .run .srcerr s) ∨ ∃ s, actionAt e run m = .reset s)

/-- 60_exceptions.md R237, 43_frame_emitter.md R160: a DRAIN may come after any number of ING steps, another
number in each wait. Whatever lengths are asked for, some bounds let the waits last that long. A wait starts
at 0 and counts the steps that leave DRAIN enabled; the DRAIN or RESET that ends it moves on to the next
wait's bound, and an SRCERR, which ends it too, leaves no step but RESET (the bounds and the counts are the
model's, log 19). -/
def Obligations.DrainMayWaitForAnyNumberOfIngs : Prop :=
  (∀ (c : Config) (length : Nat → Nat), ∃ patience, ∀ s : State, drainEnabled s = true →
    (drainDue { c with patience := patience } s = true ↔ length s.drainTurns < s.drainWait)) ∧
  (∀ s t : State, step s = .next t →
    (drainEnabled s = true → drainEnabled t = true →
      t.drainWait = s.drainWait + 1 ∧ t.drainTurns = s.drainTurns) ∧
    (s.hdrDone = true → drainEnabled s = false → drainEnabled t = true →
      t.drainWait = 0 ∧ t.drainTurns = s.drainTurns) ∧
    (drainEnabled s = true → drainEnabled t = false →
      t.drainTurns = s.drainTurns + 1 ∨ t.term = true) ∧
    (s.term = true → t.term = true ∨ (t.drainTurns = s.drainTurns + 1 ∧ t.drainWait = 0)))
end

