-- ==== Sys2Proof/Laws/Decode.lean ====
section
/-! SUPPORT. What the decoder answers (30_encoding.md R88, R90). -/

namespace Sys2Proof

/-- The decoder's three rows, or the refusal. -/
theorem decode_cases (w : EventWord) :
    (w &&& 0x300#10 = 0x000#10 ∧ decode w = .ok (.ing (eventData w))) ∨
    (w &&& 0x3FF#10 = 0x100#10 ∧ decode w = .ok .drain) ∨
    (w &&& 0x3FF#10 = 0x200#10 ∧ decode w = .ok .srcerr) ∨
    decode w = .error (reservedName w) := by
  unfold decode
  split
  · next h => exact .inl ⟨h, rfl⟩
  · split
    · next h => exact .inr (.inl ⟨h, rfl⟩)
    · split
      · next h => exact .inr (.inr (.inl ⟨h, rfl⟩))
      · exact .inr (.inr (.inr rfl))

/-- A line that expands is well formed, and only such a line does (30_encoding.md R93, R94). -/
theorem AsmLine.expand_isSome (l : AsmLine) : l.expand.isSome = l.wf := by
  unfold AsmLine.expand
  cases l.wf <;> cases l.op <;> rfl

/-- A program's words are its first line's and then the others'. -/
theorem assemble_cons {l : List Char} {ls : List (List Char)} {ws : List EventWord} :
    assemble (l :: ls) = .ok ws ↔
      ∃ us vs, assembleLine l = .ok us ∧ assemble ls = .ok vs ∧ ws = us ++ vs := by
  simp only [assemble]
  cases assembleLine l with
  | error e => simp
  | ok us =>
    cases assemble ls with
    | error e => simp
    | ok vs => simp [eq_comm]

end Sys2Proof
end

