-- ==== Sys2Proof/Laws/State.lean ====
section
/-! SUPPORT. One lemma per field per named update of the state, each true by rfl. -/

namespace Sys2Proof.Machine

@[simp] theorem raiseOverrun_fsm (s : State) : (raiseOverrun s).fsm = s.fsm := rfl
@[simp] theorem raiseOverrun_len (s : State) : (raiseOverrun s).len = s.len := rfl
@[simp] theorem raiseOverrun_cnt (s : State) : (raiseOverrun s).cnt = s.cnt := rfl
@[simp] theorem raiseOverrun_wr (s : State) : (raiseOverrun s).wr = s.wr := rfl
@[simp] theorem raiseOverrun_rd (s : State) : (raiseOverrun s).rd = s.rd := rfl
@[simp] theorem raiseOverrun_ring (s : State) : (raiseOverrun s).ring = s.ring := rfl
@[simp] theorem raiseOverrun_fs (s : State) : (raiseOverrun s).fs = s.fs := rfl
@[simp] theorem raiseOverrun_discard (s : State) : (raiseOverrun s).discard = s.discard := rfl
@[simp] theorem raiseOverrun_ready (s : State) : (raiseOverrun s).ready = s.ready := rfl
@[simp] theorem raiseOverrun_hdrDone (s : State) : (raiseOverrun s).hdrDone = s.hdrDone := rfl
@[simp] theorem raiseOverrun_startEpoch (s : State) : (raiseOverrun s).startEpoch = s.startEpoch := rfl
@[simp] theorem raiseOverrun_lastNow (s : State) : (raiseOverrun s).lastNow = s.lastNow := rfl
@[simp] theorem raiseOverrun_ovr (s : State) : (raiseOverrun s).ovr = true := rfl
@[simp] theorem raiseOverrun_fi (s : State) : (raiseOverrun s).fi = true := rfl
@[simp] theorem raiseOverrun_term (s : State) : (raiseOverrun s).term = s.term := rfl
@[simp] theorem raiseOverrun_cause (s : State) : (raiseOverrun s).cause = s.cause := rfl
@[simp] theorem raiseOverrun_out (s : State) : (raiseOverrun s).out = s.out := rfl
@[simp] theorem raiseOverrun_inputs (s : State) : (raiseOverrun s).inputs = s.inputs := rfl
@[simp] theorem raiseOverrun_clockDraws (s : State) : (raiseOverrun s).clockDraws = s.clockDraws := rfl
@[simp] theorem raiseOverrun_sinkDraws (s : State) : (raiseOverrun s).sinkDraws = s.sinkDraws := rfl
@[simp] theorem raiseOverrun_drainWait (s : State) : (raiseOverrun s).drainWait = s.drainWait := rfl
@[simp] theorem raiseOverrun_drainTurns (s : State) : (raiseOverrun s).drainTurns = s.drainTurns := rfl

@[simp] theorem raiseInconsistency_fsm (s : State) : (raiseInconsistency s).fsm = s.fsm := rfl
@[simp] theorem raiseInconsistency_len (s : State) : (raiseInconsistency s).len = s.len := rfl
@[simp] theorem raiseInconsistency_cnt (s : State) : (raiseInconsistency s).cnt = s.cnt := rfl
@[simp] theorem raiseInconsistency_wr (s : State) : (raiseInconsistency s).wr = s.wr := rfl
@[simp] theorem raiseInconsistency_rd (s : State) : (raiseInconsistency s).rd = s.rd := rfl
@[simp] theorem raiseInconsistency_ring (s : State) : (raiseInconsistency s).ring = s.ring := rfl
@[simp] theorem raiseInconsistency_fs (s : State) : (raiseInconsistency s).fs = s.fs := rfl
@[simp] theorem raiseInconsistency_discard (s : State) : (raiseInconsistency s).discard = s.discard := rfl
@[simp] theorem raiseInconsistency_ready (s : State) : (raiseInconsistency s).ready = s.ready := rfl
@[simp] theorem raiseInconsistency_hdrDone (s : State) : (raiseInconsistency s).hdrDone = s.hdrDone := rfl
@[simp] theorem raiseInconsistency_startEpoch (s : State) : (raiseInconsistency s).startEpoch = s.startEpoch := rfl
@[simp] theorem raiseInconsistency_lastNow (s : State) : (raiseInconsistency s).lastNow = s.lastNow := rfl
@[simp] theorem raiseInconsistency_ovr (s : State) : (raiseInconsistency s).ovr = s.ovr := rfl
@[simp] theorem raiseInconsistency_fi (s : State) : (raiseInconsistency s).fi = true := rfl
@[simp] theorem raiseInconsistency_term (s : State) : (raiseInconsistency s).term = s.term := rfl
@[simp] theorem raiseInconsistency_cause (s : State) : (raiseInconsistency s).cause = s.cause := rfl
@[simp] theorem raiseInconsistency_out (s : State) : (raiseInconsistency s).out = s.out := rfl
@[simp] theorem raiseInconsistency_inputs (s : State) : (raiseInconsistency s).inputs = s.inputs := rfl
@[simp] theorem raiseInconsistency_clockDraws (s : State) : (raiseInconsistency s).clockDraws = s.clockDraws := rfl
@[simp] theorem raiseInconsistency_sinkDraws (s : State) : (raiseInconsistency s).sinkDraws = s.sinkDraws := rfl
@[simp] theorem raiseInconsistency_drainWait (s : State) : (raiseInconsistency s).drainWait = s.drainWait := rfl
@[simp] theorem raiseInconsistency_drainTurns (s : State) : (raiseInconsistency s).drainTurns = s.drainTurns := rfl

@[simp] theorem rollback_fsm (s : State) : (rollback s).fsm = s.fsm := rfl
@[simp] theorem rollback_len (s : State) : (rollback s).len = s.len := rfl
@[simp] theorem rollback_cnt (s : State) : (rollback s).cnt = s.cnt := rfl
@[simp] theorem rollback_wr (s : State) : (rollback s).wr = s.fs := rfl
@[simp] theorem rollback_rd (s : State) : (rollback s).rd = s.rd := rfl
@[simp] theorem rollback_ring (s : State) : (rollback s).ring = s.ring := rfl
@[simp] theorem rollback_fs (s : State) : (rollback s).fs = s.fs := rfl
@[simp] theorem rollback_discard (s : State) : (rollback s).discard = s.discard := rfl
@[simp] theorem rollback_ready (s : State) : (rollback s).ready = s.ready := rfl
@[simp] theorem rollback_hdrDone (s : State) : (rollback s).hdrDone = s.hdrDone := rfl
@[simp] theorem rollback_startEpoch (s : State) : (rollback s).startEpoch = s.startEpoch := rfl
@[simp] theorem rollback_lastNow (s : State) : (rollback s).lastNow = s.lastNow := rfl
@[simp] theorem rollback_ovr (s : State) : (rollback s).ovr = s.ovr := rfl
@[simp] theorem rollback_fi (s : State) : (rollback s).fi = s.fi := rfl
@[simp] theorem rollback_term (s : State) : (rollback s).term = s.term := rfl
@[simp] theorem rollback_cause (s : State) : (rollback s).cause = s.cause := rfl
@[simp] theorem rollback_out (s : State) : (rollback s).out = s.out := rfl
@[simp] theorem rollback_inputs (s : State) : (rollback s).inputs = s.inputs := rfl
@[simp] theorem rollback_clockDraws (s : State) : (rollback s).clockDraws = s.clockDraws := rfl
@[simp] theorem rollback_sinkDraws (s : State) : (rollback s).sinkDraws = s.sinkDraws := rfl
@[simp] theorem rollback_drainWait (s : State) : (rollback s).drainWait = s.drainWait := rfl
@[simp] theorem rollback_drainTurns (s : State) : (rollback s).drainTurns = s.drainTurns := rfl

@[simp] theorem terminate_fsm (k : Cause) (s : State) : (terminate k s).fsm = s.fsm := rfl
@[simp] theorem terminate_len (k : Cause) (s : State) : (terminate k s).len = s.len := rfl
@[simp] theorem terminate_cnt (k : Cause) (s : State) : (terminate k s).cnt = s.cnt := rfl
@[simp] theorem terminate_wr (k : Cause) (s : State) : (terminate k s).wr = s.wr := rfl
@[simp] theorem terminate_rd (k : Cause) (s : State) : (terminate k s).rd = s.rd := rfl
@[simp] theorem terminate_ring (k : Cause) (s : State) : (terminate k s).ring = s.ring := rfl
@[simp] theorem terminate_fs (k : Cause) (s : State) : (terminate k s).fs = s.fs := rfl
@[simp] theorem terminate_discard (k : Cause) (s : State) : (terminate k s).discard = s.discard := rfl
@[simp] theorem terminate_ready (k : Cause) (s : State) : (terminate k s).ready = s.ready := rfl
@[simp] theorem terminate_hdrDone (k : Cause) (s : State) : (terminate k s).hdrDone = s.hdrDone := rfl
@[simp] theorem terminate_startEpoch (k : Cause) (s : State) : (terminate k s).startEpoch = s.startEpoch := rfl
@[simp] theorem terminate_lastNow (k : Cause) (s : State) : (terminate k s).lastNow = s.lastNow := rfl
@[simp] theorem terminate_ovr (k : Cause) (s : State) : (terminate k s).ovr = s.ovr := rfl
@[simp] theorem terminate_fi (k : Cause) (s : State) : (terminate k s).fi = s.fi := rfl
@[simp] theorem terminate_term (k : Cause) (s : State) : (terminate k s).term = true := rfl
@[simp] theorem terminate_cause (k : Cause) (s : State) : (terminate k s).cause = k := rfl
@[simp] theorem terminate_out (k : Cause) (s : State) : (terminate k s).out = s.out := rfl
@[simp] theorem terminate_inputs (k : Cause) (s : State) : (terminate k s).inputs = s.inputs := rfl
@[simp] theorem terminate_clockDraws (k : Cause) (s : State) : (terminate k s).clockDraws = s.clockDraws := rfl
@[simp] theorem terminate_sinkDraws (k : Cause) (s : State) : (terminate k s).sinkDraws = s.sinkDraws := rfl
@[simp] theorem terminate_drainWait (k : Cause) (s : State) : (terminate k s).drainWait = s.drainWait := rfl
@[simp] theorem terminate_drainTurns (k : Cause) (s : State) : (terminate k s).drainTurns = s.drainTurns := rfl

@[simp] theorem startFrame_fsm (b : Byte) (s : State) : (startFrame b s).fsm = s.fsm := rfl
@[simp] theorem startFrame_len (b : Byte) (s : State) : (startFrame b s).len = b := rfl
@[simp] theorem startFrame_cnt (b : Byte) (s : State) : (startFrame b s).cnt = 0 := rfl
@[simp] theorem startFrame_wr (b : Byte) (s : State) : (startFrame b s).wr = s.wr := rfl
@[simp] theorem startFrame_rd (b : Byte) (s : State) : (startFrame b s).rd = s.rd := rfl
@[simp] theorem startFrame_ring (b : Byte) (s : State) : (startFrame b s).ring = s.ring := rfl
@[simp] theorem startFrame_fs (b : Byte) (s : State) : (startFrame b s).fs = s.wr := rfl
@[simp] theorem startFrame_discard (b : Byte) (s : State) : (startFrame b s).discard = s.discard := rfl
@[simp] theorem startFrame_ready (b : Byte) (s : State) : (startFrame b s).ready = s.ready := rfl
@[simp] theorem startFrame_hdrDone (b : Byte) (s : State) : (startFrame b s).hdrDone = s.hdrDone := rfl
@[simp] theorem startFrame_startEpoch (b : Byte) (s : State) : (startFrame b s).startEpoch = s.startEpoch := rfl
@[simp] theorem startFrame_lastNow (b : Byte) (s : State) : (startFrame b s).lastNow = s.lastNow := rfl
@[simp] theorem startFrame_ovr (b : Byte) (s : State) : (startFrame b s).ovr = s.ovr := rfl
@[simp] theorem startFrame_fi (b : Byte) (s : State) : (startFrame b s).fi = s.fi := rfl
@[simp] theorem startFrame_term (b : Byte) (s : State) : (startFrame b s).term = s.term := rfl
@[simp] theorem startFrame_cause (b : Byte) (s : State) : (startFrame b s).cause = s.cause := rfl
@[simp] theorem startFrame_out (b : Byte) (s : State) : (startFrame b s).out = s.out := rfl
@[simp] theorem startFrame_inputs (b : Byte) (s : State) : (startFrame b s).inputs = s.inputs := rfl
@[simp] theorem startFrame_clockDraws (b : Byte) (s : State) : (startFrame b s).clockDraws = s.clockDraws := rfl
@[simp] theorem startFrame_sinkDraws (b : Byte) (s : State) : (startFrame b s).sinkDraws = s.sinkDraws := rfl
@[simp] theorem startFrame_drainWait (b : Byte) (s : State) : (startFrame b s).drainWait = s.drainWait := rfl
@[simp] theorem startFrame_drainTurns (b : Byte) (s : State) : (startFrame b s).drainTurns = s.drainTurns := rfl

@[simp] theorem finishDegenerate_fsm (b : Bool) (s : State) : (finishDegenerate b s).fsm = .awaitingLength := rfl
@[simp] theorem finishDegenerate_len (b : Bool) (s : State) : (finishDegenerate b s).len = s.len := rfl
@[simp] theorem finishDegenerate_cnt (b : Bool) (s : State) : (finishDegenerate b s).cnt = s.cnt := rfl
@[simp] theorem finishDegenerate_wr (b : Bool) (s : State) : (finishDegenerate b s).wr = s.wr := rfl
@[simp] theorem finishDegenerate_rd (b : Bool) (s : State) : (finishDegenerate b s).rd = s.rd := rfl
@[simp] theorem finishDegenerate_ring (b : Bool) (s : State) : (finishDegenerate b s).ring = s.ring := rfl
@[simp] theorem finishDegenerate_fs (b : Bool) (s : State) : (finishDegenerate b s).fs = s.fs := rfl
@[simp] theorem finishDegenerate_discard (b : Bool) (s : State) : (finishDegenerate b s).discard = false := rfl
@[simp] theorem finishDegenerate_ready (b : Bool) (s : State) : (finishDegenerate b s).ready = (s.ready || b) := rfl
@[simp] theorem finishDegenerate_hdrDone (b : Bool) (s : State) : (finishDegenerate b s).hdrDone = s.hdrDone := rfl
@[simp] theorem finishDegenerate_startEpoch (b : Bool) (s : State) : (finishDegenerate b s).startEpoch = s.startEpoch := rfl
@[simp] theorem finishDegenerate_lastNow (b : Bool) (s : State) : (finishDegenerate b s).lastNow = s.lastNow := rfl
@[simp] theorem finishDegenerate_ovr (b : Bool) (s : State) : (finishDegenerate b s).ovr = s.ovr := rfl
@[simp] theorem finishDegenerate_fi (b : Bool) (s : State) : (finishDegenerate b s).fi = s.fi := rfl
@[simp] theorem finishDegenerate_term (b : Bool) (s : State) : (finishDegenerate b s).term = s.term := rfl
@[simp] theorem finishDegenerate_cause (b : Bool) (s : State) : (finishDegenerate b s).cause = s.cause := rfl
@[simp] theorem finishDegenerate_out (b : Bool) (s : State) : (finishDegenerate b s).out = s.out := rfl
@[simp] theorem finishDegenerate_inputs (b : Bool) (s : State) : (finishDegenerate b s).inputs = s.inputs := rfl
@[simp] theorem finishDegenerate_clockDraws (b : Bool) (s : State) : (finishDegenerate b s).clockDraws = s.clockDraws := rfl
@[simp] theorem finishDegenerate_sinkDraws (b : Bool) (s : State) : (finishDegenerate b s).sinkDraws = s.sinkDraws := rfl
@[simp] theorem finishDegenerate_drainWait (b : Bool) (s : State) : (finishDegenerate b s).drainWait = s.drainWait := rfl
@[simp] theorem finishDegenerate_drainTurns (b : Bool) (s : State) : (finishDegenerate b s).drainTurns = s.drainTurns := rfl

@[simp] theorem startBody_fsm (b : Bool) (s : State) : (startBody b s).fsm = .capturingBody := rfl
@[simp] theorem startBody_len (b : Bool) (s : State) : (startBody b s).len = s.len := rfl
@[simp] theorem startBody_cnt (b : Bool) (s : State) : (startBody b s).cnt = s.cnt := rfl
@[simp] theorem startBody_wr (b : Bool) (s : State) : (startBody b s).wr = s.wr := rfl
@[simp] theorem startBody_rd (b : Bool) (s : State) : (startBody b s).rd = s.rd := rfl
@[simp] theorem startBody_ring (b : Bool) (s : State) : (startBody b s).ring = s.ring := rfl
@[simp] theorem startBody_fs (b : Bool) (s : State) : (startBody b s).fs = s.fs := rfl
@[simp] theorem startBody_discard (b : Bool) (s : State) : (startBody b s).discard = !b := rfl
@[simp] theorem startBody_ready (b : Bool) (s : State) : (startBody b s).ready = s.ready := rfl
@[simp] theorem startBody_hdrDone (b : Bool) (s : State) : (startBody b s).hdrDone = s.hdrDone := rfl
@[simp] theorem startBody_startEpoch (b : Bool) (s : State) : (startBody b s).startEpoch = s.startEpoch := rfl
@[simp] theorem startBody_lastNow (b : Bool) (s : State) : (startBody b s).lastNow = s.lastNow := rfl
@[simp] theorem startBody_ovr (b : Bool) (s : State) : (startBody b s).ovr = s.ovr := rfl
@[simp] theorem startBody_fi (b : Bool) (s : State) : (startBody b s).fi = s.fi := rfl
@[simp] theorem startBody_term (b : Bool) (s : State) : (startBody b s).term = s.term := rfl
@[simp] theorem startBody_cause (b : Bool) (s : State) : (startBody b s).cause = s.cause := rfl
@[simp] theorem startBody_out (b : Bool) (s : State) : (startBody b s).out = s.out := rfl
@[simp] theorem startBody_inputs (b : Bool) (s : State) : (startBody b s).inputs = s.inputs := rfl
@[simp] theorem startBody_clockDraws (b : Bool) (s : State) : (startBody b s).clockDraws = s.clockDraws := rfl
@[simp] theorem startBody_sinkDraws (b : Bool) (s : State) : (startBody b s).sinkDraws = s.sinkDraws := rfl
@[simp] theorem startBody_drainWait (b : Bool) (s : State) : (startBody b s).drainWait = s.drainWait := rfl
@[simp] theorem startBody_drainTurns (b : Bool) (s : State) : (startBody b s).drainTurns = s.drainTurns := rfl

@[simp] theorem dropFrame_fsm (s : State) : (dropFrame s).fsm = s.fsm := rfl
@[simp] theorem dropFrame_len (s : State) : (dropFrame s).len = s.len := rfl
@[simp] theorem dropFrame_cnt (s : State) : (dropFrame s).cnt = s.cnt := rfl
@[simp] theorem dropFrame_wr (s : State) : (dropFrame s).wr = s.fs := rfl
@[simp] theorem dropFrame_rd (s : State) : (dropFrame s).rd = s.rd := rfl
@[simp] theorem dropFrame_ring (s : State) : (dropFrame s).ring = s.ring := rfl
@[simp] theorem dropFrame_fs (s : State) : (dropFrame s).fs = s.fs := rfl
@[simp] theorem dropFrame_discard (s : State) : (dropFrame s).discard = true := rfl
@[simp] theorem dropFrame_ready (s : State) : (dropFrame s).ready = s.ready := rfl
@[simp] theorem dropFrame_hdrDone (s : State) : (dropFrame s).hdrDone = s.hdrDone := rfl
@[simp] theorem dropFrame_startEpoch (s : State) : (dropFrame s).startEpoch = s.startEpoch := rfl
@[simp] theorem dropFrame_lastNow (s : State) : (dropFrame s).lastNow = s.lastNow := rfl
@[simp] theorem dropFrame_ovr (s : State) : (dropFrame s).ovr = true := rfl
@[simp] theorem dropFrame_fi (s : State) : (dropFrame s).fi = true := rfl
@[simp] theorem dropFrame_term (s : State) : (dropFrame s).term = s.term := rfl
@[simp] theorem dropFrame_cause (s : State) : (dropFrame s).cause = s.cause := rfl
@[simp] theorem dropFrame_out (s : State) : (dropFrame s).out = s.out := rfl
@[simp] theorem dropFrame_inputs (s : State) : (dropFrame s).inputs = s.inputs := rfl
@[simp] theorem dropFrame_clockDraws (s : State) : (dropFrame s).clockDraws = s.clockDraws := rfl
@[simp] theorem dropFrame_sinkDraws (s : State) : (dropFrame s).sinkDraws = s.sinkDraws := rfl
@[simp] theorem dropFrame_drainWait (s : State) : (dropFrame s).drainWait = s.drainWait := rfl
@[simp] theorem dropFrame_drainTurns (s : State) : (dropFrame s).drainTurns = s.drainTurns := rfl

@[simp] theorem countBodyByte_fsm (s : State) : (countBodyByte s).fsm = s.fsm := rfl
@[simp] theorem countBodyByte_len (s : State) : (countBodyByte s).len = s.len := rfl
@[simp] theorem countBodyByte_cnt (s : State) : (countBodyByte s).cnt = s.cnt + 1 := rfl
@[simp] theorem countBodyByte_wr (s : State) : (countBodyByte s).wr = s.wr := rfl
@[simp] theorem countBodyByte_rd (s : State) : (countBodyByte s).rd = s.rd := rfl
@[simp] theorem countBodyByte_ring (s : State) : (countBodyByte s).ring = s.ring := rfl
@[simp] theorem countBodyByte_fs (s : State) : (countBodyByte s).fs = s.fs := rfl
@[simp] theorem countBodyByte_discard (s : State) : (countBodyByte s).discard = s.discard := rfl
@[simp] theorem countBodyByte_ready (s : State) : (countBodyByte s).ready = s.ready := rfl
@[simp] theorem countBodyByte_hdrDone (s : State) : (countBodyByte s).hdrDone = s.hdrDone := rfl
@[simp] theorem countBodyByte_startEpoch (s : State) : (countBodyByte s).startEpoch = s.startEpoch := rfl
@[simp] theorem countBodyByte_lastNow (s : State) : (countBodyByte s).lastNow = s.lastNow := rfl
@[simp] theorem countBodyByte_ovr (s : State) : (countBodyByte s).ovr = s.ovr := rfl
@[simp] theorem countBodyByte_fi (s : State) : (countBodyByte s).fi = s.fi := rfl
@[simp] theorem countBodyByte_term (s : State) : (countBodyByte s).term = s.term := rfl
@[simp] theorem countBodyByte_cause (s : State) : (countBodyByte s).cause = s.cause := rfl
@[simp] theorem countBodyByte_out (s : State) : (countBodyByte s).out = s.out := rfl
@[simp] theorem countBodyByte_inputs (s : State) : (countBodyByte s).inputs = s.inputs := rfl
@[simp] theorem countBodyByte_clockDraws (s : State) : (countBodyByte s).clockDraws = s.clockDraws := rfl
@[simp] theorem countBodyByte_sinkDraws (s : State) : (countBodyByte s).sinkDraws = s.sinkDraws := rfl
@[simp] theorem countBodyByte_drainWait (s : State) : (countBodyByte s).drainWait = s.drainWait := rfl
@[simp] theorem countBodyByte_drainTurns (s : State) : (countBodyByte s).drainTurns = s.drainTurns := rfl

@[simp] theorem finishFrame_fsm (s : State) : (finishFrame s).fsm = .awaitingLength := rfl
@[simp] theorem finishFrame_len (s : State) : (finishFrame s).len = s.len := rfl
@[simp] theorem finishFrame_cnt (s : State) : (finishFrame s).cnt = s.cnt := rfl
@[simp] theorem finishFrame_wr (s : State) : (finishFrame s).wr = s.wr := rfl
@[simp] theorem finishFrame_rd (s : State) : (finishFrame s).rd = s.rd := rfl
@[simp] theorem finishFrame_ring (s : State) : (finishFrame s).ring = s.ring := rfl
@[simp] theorem finishFrame_fs (s : State) : (finishFrame s).fs = s.fs := rfl
@[simp] theorem finishFrame_discard (s : State) : (finishFrame s).discard = false := rfl
@[simp] theorem finishFrame_ready (s : State) : (finishFrame s).ready = (s.ready || !s.discard) := rfl
@[simp] theorem finishFrame_hdrDone (s : State) : (finishFrame s).hdrDone = s.hdrDone := rfl
@[simp] theorem finishFrame_startEpoch (s : State) : (finishFrame s).startEpoch = s.startEpoch := rfl
@[simp] theorem finishFrame_lastNow (s : State) : (finishFrame s).lastNow = s.lastNow := rfl
@[simp] theorem finishFrame_ovr (s : State) : (finishFrame s).ovr = s.ovr := rfl
@[simp] theorem finishFrame_fi (s : State) : (finishFrame s).fi = s.fi := rfl
@[simp] theorem finishFrame_term (s : State) : (finishFrame s).term = s.term := rfl
@[simp] theorem finishFrame_cause (s : State) : (finishFrame s).cause = s.cause := rfl
@[simp] theorem finishFrame_out (s : State) : (finishFrame s).out = s.out := rfl
@[simp] theorem finishFrame_inputs (s : State) : (finishFrame s).inputs = s.inputs := rfl
@[simp] theorem finishFrame_clockDraws (s : State) : (finishFrame s).clockDraws = s.clockDraws := rfl
@[simp] theorem finishFrame_sinkDraws (s : State) : (finishFrame s).sinkDraws = s.sinkDraws := rfl
@[simp] theorem finishFrame_drainWait (s : State) : (finishFrame s).drainWait = s.drainWait := rfl
@[simp] theorem finishFrame_drainTurns (s : State) : (finishFrame s).drainTurns = s.drainTurns := rfl

@[simp] theorem finishDropped_fsm (s : State) : (finishDropped s).fsm = .awaitingLength := rfl
@[simp] theorem finishDropped_len (s : State) : (finishDropped s).len = s.len := rfl
@[simp] theorem finishDropped_cnt (s : State) : (finishDropped s).cnt = s.cnt := rfl
@[simp] theorem finishDropped_wr (s : State) : (finishDropped s).wr = s.wr := rfl
@[simp] theorem finishDropped_rd (s : State) : (finishDropped s).rd = s.rd := rfl
@[simp] theorem finishDropped_ring (s : State) : (finishDropped s).ring = s.ring := rfl
@[simp] theorem finishDropped_fs (s : State) : (finishDropped s).fs = s.fs := rfl
@[simp] theorem finishDropped_discard (s : State) : (finishDropped s).discard = false := rfl
@[simp] theorem finishDropped_ready (s : State) : (finishDropped s).ready = s.ready := rfl
@[simp] theorem finishDropped_hdrDone (s : State) : (finishDropped s).hdrDone = s.hdrDone := rfl
@[simp] theorem finishDropped_startEpoch (s : State) : (finishDropped s).startEpoch = s.startEpoch := rfl
@[simp] theorem finishDropped_lastNow (s : State) : (finishDropped s).lastNow = s.lastNow := rfl
@[simp] theorem finishDropped_ovr (s : State) : (finishDropped s).ovr = s.ovr := rfl
@[simp] theorem finishDropped_fi (s : State) : (finishDropped s).fi = s.fi := rfl
@[simp] theorem finishDropped_term (s : State) : (finishDropped s).term = s.term := rfl
@[simp] theorem finishDropped_cause (s : State) : (finishDropped s).cause = s.cause := rfl
@[simp] theorem finishDropped_out (s : State) : (finishDropped s).out = s.out := rfl
@[simp] theorem finishDropped_inputs (s : State) : (finishDropped s).inputs = s.inputs := rfl
@[simp] theorem finishDropped_clockDraws (s : State) : (finishDropped s).clockDraws = s.clockDraws := rfl
@[simp] theorem finishDropped_sinkDraws (s : State) : (finishDropped s).sinkDraws = s.sinkDraws := rfl
@[simp] theorem finishDropped_drainWait (s : State) : (finishDropped s).drainWait = s.drainWait := rfl
@[simp] theorem finishDropped_drainTurns (s : State) : (finishDropped s).drainTurns = s.drainTurns := rfl

@[simp] theorem drawClock_fsm (c : Config) (t : Micros) (s : State) : (drawClock c t s).fsm = s.fsm := rfl
@[simp] theorem drawClock_len (c : Config) (t : Micros) (s : State) : (drawClock c t s).len = s.len := rfl
@[simp] theorem drawClock_cnt (c : Config) (t : Micros) (s : State) : (drawClock c t s).cnt = s.cnt := rfl
@[simp] theorem drawClock_wr (c : Config) (t : Micros) (s : State) : (drawClock c t s).wr = s.wr := rfl
@[simp] theorem drawClock_rd (c : Config) (t : Micros) (s : State) : (drawClock c t s).rd = s.rd := rfl
@[simp] theorem drawClock_ring (c : Config) (t : Micros) (s : State) : (drawClock c t s).ring = s.ring := rfl
@[simp] theorem drawClock_fs (c : Config) (t : Micros) (s : State) : (drawClock c t s).fs = s.fs := rfl
@[simp] theorem drawClock_discard (c : Config) (t : Micros) (s : State) : (drawClock c t s).discard = s.discard := rfl
@[simp] theorem drawClock_ready (c : Config) (t : Micros) (s : State) : (drawClock c t s).ready = s.ready := rfl
@[simp] theorem drawClock_hdrDone (c : Config) (t : Micros) (s : State) : (drawClock c t s).hdrDone = s.hdrDone := rfl
@[simp] theorem drawClock_startEpoch (c : Config) (t : Micros) (s : State) : (drawClock c t s).startEpoch = s.startEpoch := rfl
@[simp] theorem drawClock_lastNow (c : Config) (t : Micros) (s : State) : (drawClock c t s).lastNow = clockSample c t s.clockDraws := rfl
@[simp] theorem drawClock_ovr (c : Config) (t : Micros) (s : State) : (drawClock c t s).ovr = s.ovr := rfl
@[simp] theorem drawClock_fi (c : Config) (t : Micros) (s : State) : (drawClock c t s).fi = s.fi := rfl
@[simp] theorem drawClock_term (c : Config) (t : Micros) (s : State) : (drawClock c t s).term = s.term := rfl
@[simp] theorem drawClock_cause (c : Config) (t : Micros) (s : State) : (drawClock c t s).cause = s.cause := rfl
@[simp] theorem drawClock_out (c : Config) (t : Micros) (s : State) : (drawClock c t s).out = s.out := rfl
@[simp] theorem drawClock_inputs (c : Config) (t : Micros) (s : State) : (drawClock c t s).inputs = s.inputs := rfl
@[simp] theorem drawClock_clockDraws (c : Config) (t : Micros) (s : State) : (drawClock c t s).clockDraws = s.clockDraws + 1 := rfl
@[simp] theorem drawClock_sinkDraws (c : Config) (t : Micros) (s : State) : (drawClock c t s).sinkDraws = s.sinkDraws := rfl
@[simp] theorem drawClock_drainWait (c : Config) (t : Micros) (s : State) : (drawClock c t s).drainWait = s.drainWait := rfl
@[simp] theorem drawClock_drainTurns (c : Config) (t : Micros) (s : State) : (drawClock c t s).drainTurns = s.drainTurns := rfl

/-! The scheduler's count changes `drainWait` and `drainTurns` only (60_exceptions.md R237). -/

@[simp] theorem countTurn_fsm (i : Instr) (s : State) : (countTurn i s).fsm = s.fsm := by
  cases i <;> rfl
@[simp] theorem countTurn_len (i : Instr) (s : State) : (countTurn i s).len = s.len := by
  cases i <;> rfl
@[simp] theorem countTurn_cnt (i : Instr) (s : State) : (countTurn i s).cnt = s.cnt := by
  cases i <;> rfl
@[simp] theorem countTurn_wr (i : Instr) (s : State) : (countTurn i s).wr = s.wr := by
  cases i <;> rfl
@[simp] theorem countTurn_rd (i : Instr) (s : State) : (countTurn i s).rd = s.rd := by
  cases i <;> rfl
@[simp] theorem countTurn_ring (i : Instr) (s : State) : (countTurn i s).ring = s.ring := by
  cases i <;> rfl
@[simp] theorem countTurn_fs (i : Instr) (s : State) : (countTurn i s).fs = s.fs := by
  cases i <;> rfl
@[simp] theorem countTurn_discard (i : Instr) (s : State) : (countTurn i s).discard = s.discard := by
  cases i <;> rfl
@[simp] theorem countTurn_ready (i : Instr) (s : State) : (countTurn i s).ready = s.ready := by
  cases i <;> rfl
@[simp] theorem countTurn_hdrDone (i : Instr) (s : State) : (countTurn i s).hdrDone = s.hdrDone := by
  cases i <;> rfl
@[simp] theorem countTurn_startEpoch (i : Instr) (s : State) : (countTurn i s).startEpoch = s.startEpoch := by
  cases i <;> rfl
@[simp] theorem countTurn_lastNow (i : Instr) (s : State) : (countTurn i s).lastNow = s.lastNow := by
  cases i <;> rfl
@[simp] theorem countTurn_ovr (i : Instr) (s : State) : (countTurn i s).ovr = s.ovr := by
  cases i <;> rfl
@[simp] theorem countTurn_fi (i : Instr) (s : State) : (countTurn i s).fi = s.fi := by
  cases i <;> rfl
@[simp] theorem countTurn_term (i : Instr) (s : State) : (countTurn i s).term = s.term := by
  cases i <;> rfl
@[simp] theorem countTurn_cause (i : Instr) (s : State) : (countTurn i s).cause = s.cause := by
  cases i <;> rfl
@[simp] theorem countTurn_out (i : Instr) (s : State) : (countTurn i s).out = s.out := by
  cases i <;> rfl
@[simp] theorem countTurn_inputs (i : Instr) (s : State) : (countTurn i s).inputs = s.inputs := by
  cases i <;> rfl
@[simp] theorem countTurn_clockDraws (i : Instr) (s : State) : (countTurn i s).clockDraws = s.clockDraws := by
  cases i <;> rfl
@[simp] theorem countTurn_sinkDraws (i : Instr) (s : State) : (countTurn i s).sinkDraws = s.sinkDraws := by
  cases i <;> rfl
@[simp] theorem countTurn_ing_drainWait (b : Byte) (s : State) : (countTurn (.ing b) s).drainWait =
    if drainEnabled s then s.drainWait + 1 else 0 := rfl
@[simp] theorem countTurn_ing_drainTurns (b : Byte) (s : State) : (countTurn (.ing b) s).drainTurns = s.drainTurns := rfl
@[simp] theorem countTurn_drain_drainWait (s : State) : (countTurn .drain s).drainWait = 0 := rfl
@[simp] theorem countTurn_drain_drainTurns (s : State) : (countTurn .drain s).drainTurns = s.drainTurns + 1 := rfl
@[simp] theorem countTurn_srcerr (s : State) : countTurn .srcerr s = s := rfl

@[simp] theorem resetNext_fsm (s : State) : (resetNext s).fsm = State.reset.fsm := rfl
@[simp] theorem resetNext_len (s : State) : (resetNext s).len = State.reset.len := rfl
@[simp] theorem resetNext_cnt (s : State) : (resetNext s).cnt = State.reset.cnt := rfl
@[simp] theorem resetNext_wr (s : State) : (resetNext s).wr = State.reset.wr := rfl
@[simp] theorem resetNext_rd (s : State) : (resetNext s).rd = State.reset.rd := rfl
@[simp] theorem resetNext_ring (s : State) : (resetNext s).ring = State.reset.ring := rfl
@[simp] theorem resetNext_fs (s : State) : (resetNext s).fs = State.reset.fs := rfl
@[simp] theorem resetNext_discard (s : State) : (resetNext s).discard = State.reset.discard := rfl
@[simp] theorem resetNext_ready (s : State) : (resetNext s).ready = State.reset.ready := rfl
@[simp] theorem resetNext_hdrDone (s : State) : (resetNext s).hdrDone = State.reset.hdrDone := rfl
@[simp] theorem resetNext_startEpoch (s : State) : (resetNext s).startEpoch = State.reset.startEpoch := rfl
@[simp] theorem resetNext_lastNow (s : State) : (resetNext s).lastNow = State.reset.lastNow := rfl
@[simp] theorem resetNext_ovr (s : State) : (resetNext s).ovr = State.reset.ovr := rfl
@[simp] theorem resetNext_fi (s : State) : (resetNext s).fi = State.reset.fi := rfl
@[simp] theorem resetNext_term (s : State) : (resetNext s).term = State.reset.term := rfl
@[simp] theorem resetNext_cause (s : State) : (resetNext s).cause = State.reset.cause := rfl
@[simp] theorem resetNext_out (s : State) : (resetNext s).out = State.reset.out := rfl
@[simp] theorem resetNext_inputs (s : State) : (resetNext s).inputs = s.inputs := rfl
@[simp] theorem resetNext_clockDraws (s : State) : (resetNext s).clockDraws = s.clockDraws := rfl
@[simp] theorem resetNext_sinkDraws (s : State) : (resetNext s).sinkDraws = s.sinkDraws := rfl
@[simp] theorem resetNext_drainWait (s : State) : (resetNext s).drainWait = State.reset.drainWait := rfl
@[simp] theorem resetNext_drainTurns (s : State) : (resetNext s).drainTurns = s.drainTurns + 1 := rfl

/-! push changes the ring and `wr` only (42_ring_buffer.md R140). -/

@[simp] theorem push_fsm (c : Config) (b : Byte) (s : State) : (push c b s).2.fsm = s.fsm := by
  unfold push; split <;> rfl
@[simp] theorem push_len (c : Config) (b : Byte) (s : State) : (push c b s).2.len = s.len := by
  unfold push; split <;> rfl
@[simp] theorem push_cnt (c : Config) (b : Byte) (s : State) : (push c b s).2.cnt = s.cnt := by
  unfold push; split <;> rfl
@[simp] theorem push_rd (c : Config) (b : Byte) (s : State) : (push c b s).2.rd = s.rd := by
  unfold push; split <;> rfl
@[simp] theorem push_fs (c : Config) (b : Byte) (s : State) : (push c b s).2.fs = s.fs := by
  unfold push; split <;> rfl
@[simp] theorem push_discard (c : Config) (b : Byte) (s : State) : (push c b s).2.discard = s.discard := by
  unfold push; split <;> rfl
@[simp] theorem push_ready (c : Config) (b : Byte) (s : State) : (push c b s).2.ready = s.ready := by
  unfold push; split <;> rfl
@[simp] theorem push_hdrDone (c : Config) (b : Byte) (s : State) : (push c b s).2.hdrDone = s.hdrDone := by
  unfold push; split <;> rfl
@[simp] theorem push_startEpoch (c : Config) (b : Byte) (s : State) : (push c b s).2.startEpoch = s.startEpoch := by
  unfold push; split <;> rfl
@[simp] theorem push_lastNow (c : Config) (b : Byte) (s : State) : (push c b s).2.lastNow = s.lastNow := by
  unfold push; split <;> rfl
@[simp] theorem push_ovr (c : Config) (b : Byte) (s : State) : (push c b s).2.ovr = s.ovr := by
  unfold push; split <;> rfl
@[simp] theorem push_fi (c : Config) (b : Byte) (s : State) : (push c b s).2.fi = s.fi := by
  unfold push; split <;> rfl
@[simp] theorem push_term (c : Config) (b : Byte) (s : State) : (push c b s).2.term = s.term := by
  unfold push; split <;> rfl
@[simp] theorem push_cause (c : Config) (b : Byte) (s : State) : (push c b s).2.cause = s.cause := by
  unfold push; split <;> rfl
@[simp] theorem push_out (c : Config) (b : Byte) (s : State) : (push c b s).2.out = s.out := by
  unfold push; split <;> rfl
@[simp] theorem push_inputs (c : Config) (b : Byte) (s : State) : (push c b s).2.inputs = s.inputs := by
  unfold push; split <;> rfl
@[simp] theorem push_clockDraws (c : Config) (b : Byte) (s : State) : (push c b s).2.clockDraws = s.clockDraws := by
  unfold push; split <;> rfl
@[simp] theorem push_sinkDraws (c : Config) (b : Byte) (s : State) : (push c b s).2.sinkDraws = s.sinkDraws := by
  unfold push; split <;> rfl
@[simp] theorem push_drainWait (c : Config) (b : Byte) (s : State) : (push c b s).2.drainWait = s.drainWait := by
  unfold push; split <;> rfl
@[simp] theorem push_drainTurns (c : Config) (b : Byte) (s : State) : (push c b s).2.drainTurns = s.drainTurns := by
  unfold push; split <;> rfl

/-! SinkWrite changes `out`, `term`, `cause` and the count of answers only (60_exceptions.md R223). -/

@[simp] theorem sinkWrite_fsm (c : Config) (bs : List Byte) (s : State) : (sinkWrite c bs s).fsm = s.fsm := by
  unfold sinkWrite; split
  · rfl
  · dsimp only; split <;> rfl
@[simp] theorem sinkWrite_len (c : Config) (bs : List Byte) (s : State) : (sinkWrite c bs s).len = s.len := by
  unfold sinkWrite; split
  · rfl
  · dsimp only; split <;> rfl
@[simp] theorem sinkWrite_cnt (c : Config) (bs : List Byte) (s : State) : (sinkWrite c bs s).cnt = s.cnt := by
  unfold sinkWrite; split
  · rfl
  · dsimp only; split <;> rfl
@[simp] theorem sinkWrite_wr (c : Config) (bs : List Byte) (s : State) : (sinkWrite c bs s).wr = s.wr := by
  unfold sinkWrite; split
  · rfl
  · dsimp only; split <;> rfl
@[simp] theorem sinkWrite_rd (c : Config) (bs : List Byte) (s : State) : (sinkWrite c bs s).rd = s.rd := by
  unfold sinkWrite; split
  · rfl
  · dsimp only; split <;> rfl
@[simp] theorem sinkWrite_ring (c : Config) (bs : List Byte) (s : State) : (sinkWrite c bs s).ring = s.ring := by
  unfold sinkWrite; split
  · rfl
  · dsimp only; split <;> rfl
@[simp] theorem sinkWrite_fs (c : Config) (bs : List Byte) (s : State) : (sinkWrite c bs s).fs = s.fs := by
  unfold sinkWrite; split
  · rfl
  · dsimp only; split <;> rfl
@[simp] theorem sinkWrite_discard (c : Config) (bs : List Byte) (s : State) : (sinkWrite c bs s).discard = s.discard := by
  unfold sinkWrite; split
  · rfl
  · dsimp only; split <;> rfl
@[simp] theorem sinkWrite_ready (c : Config) (bs : List Byte) (s : State) : (sinkWrite c bs s).ready = s.ready := by
  unfold sinkWrite; split
  · rfl
  · dsimp only; split <;> rfl
@[simp] theorem sinkWrite_hdrDone (c : Config) (bs : List Byte) (s : State) : (sinkWrite c bs s).hdrDone = s.hdrDone := by
  unfold sinkWrite; split
  · rfl
  · dsimp only; split <;> rfl
@[simp] theorem sinkWrite_startEpoch (c : Config) (bs : List Byte) (s : State) : (sinkWrite c bs s).startEpoch = s.startEpoch := by
  unfold sinkWrite; split
  · rfl
  · dsimp only; split <;> rfl
@[simp] theorem sinkWrite_lastNow (c : Config) (bs : List Byte) (s : State) : (sinkWrite c bs s).lastNow = s.lastNow := by
  unfold sinkWrite; split
  · rfl
  · dsimp only; split <;> rfl
@[simp] theorem sinkWrite_ovr (c : Config) (bs : List Byte) (s : State) : (sinkWrite c bs s).ovr = s.ovr := by
  unfold sinkWrite; split
  · rfl
  · dsimp only; split <;> rfl
@[simp] theorem sinkWrite_fi (c : Config) (bs : List Byte) (s : State) : (sinkWrite c bs s).fi = s.fi := by
  unfold sinkWrite; split
  · rfl
  · dsimp only; split <;> rfl
@[simp] theorem sinkWrite_inputs (c : Config) (bs : List Byte) (s : State) : (sinkWrite c bs s).inputs = s.inputs := by
  unfold sinkWrite; split
  · rfl
  · dsimp only; split <;> rfl
@[simp] theorem sinkWrite_clockDraws (c : Config) (bs : List Byte) (s : State) : (sinkWrite c bs s).clockDraws = s.clockDraws := by
  unfold sinkWrite; split
  · rfl
  · dsimp only; split <;> rfl
@[simp] theorem sinkWrite_drainWait (c : Config) (bs : List Byte) (s : State) : (sinkWrite c bs s).drainWait = s.drainWait := by
  unfold sinkWrite; split
  · rfl
  · dsimp only; split <;> rfl
@[simp] theorem sinkWrite_drainTurns (c : Config) (bs : List Byte) (s : State) : (sinkWrite c bs s).drainTurns = s.drainTurns := by
  unfold sinkWrite; split
  · rfl
  · dsimp only; split <;> rfl

end Sys2Proof.Machine
end

