-- ==== Sys2Proof/Laws/Ring.lean ====
section
/-! SUPPORT. What the ring's cells, the cursors and the ring buffer's operations do (42_ring_buffer.md). -/

namespace Sys2Proof.Machine

/-! Cells: a read after a write, and the canonical form (10_state.md R26). -/

theorem Memory.read_write_same (m : List Host.Cell) (i : Nat) (v : Byte) :
    Memory.read (Memory.write m i v) i = some v := by
  induction m with
  | nil => simp [Memory.write, Memory.read]
  | cons x m ih =>
    obtain ⟨a, w⟩ := x
    simp only [Memory.write]
    split
    · simp [Memory.read]
    · split
      · simp [Memory.read]
      · next h1 h2 =>
        have : a ≠ i := fun h => h2 h.symm
        simp [Memory.read, this, ih]

theorem Memory.read_write_other (m : List Host.Cell) {i j : Nat} (v : Byte) (h : j ≠ i) :
    Memory.read (Memory.write m i v) j = Memory.read m j := by
  induction m with
  | nil => simp [Memory.write, Memory.read, h.symm]
  | cons x m ih =>
    obtain ⟨a, w⟩ := x
    simp only [Memory.write]
    split
    · simp [Memory.read, h.symm]
    · split
      · next h2 => subst h2; simp [Memory.read, h.symm]
      · simp [Memory.read, ih]

theorem Memory.read_write (m : List Host.Cell) (i j : Nat) (v : Byte) :
    Memory.read (Memory.write m i v) j = if j = i then some v else Memory.read m j := by
  split
  · next h => subst h; exact Memory.read_write_same m j v
  · next h => exact Memory.read_write_other m v h

theorem Memory.mem_write {m : List Host.Cell} {i : Nat} {v : Byte} {x : Host.Cell}
    (h : x ∈ Memory.write m i v) : x = (i, v) ∨ x ∈ m := by
  induction m with
  | nil => simpa [Memory.write] using h
  | cons y m ih =>
    simp only [Memory.write] at h
    split at h
    · simpa using h
    · split at h
      · rcases List.mem_cons.1 h with h | h
        · exact .inl h
        · exact .inr (List.mem_cons_of_mem _ h)
      · rcases List.mem_cons.1 h with h | h
        · exact .inr (h ▸ List.mem_cons_self)
        · exact (ih h).imp_right (List.mem_cons_of_mem _)

/-- The one operation that writes cells keeps the canonical form. -/
theorem Memory.wf_write {m : List Host.Cell} (i : Nat) (v : Byte) (h : Memory.wf m) :
    Memory.wf (Memory.write m i v) := by
  induction m with
  | nil => simp [Memory.write, Memory.wf]
  | cons y m ih =>
    obtain ⟨a, w⟩ := y
    have ⟨ha, hm⟩ := List.pairwise_cons.1 h
    simp only [Memory.write]
    split
    · next hlt =>
      refine List.pairwise_cons.2 ⟨fun x hx => ?_, h⟩
      rcases List.mem_cons.1 hx with rfl | hx
      · exact hlt
      · exact Nat.lt_trans hlt (ha x hx)
    · split
      · next heq => subst heq; exact List.pairwise_cons.2 ⟨ha, hm⟩
      · next h1 h2 =>
        refine List.pairwise_cons.2 ⟨fun x hx => ?_, ih hm⟩
        rcases Memory.mem_write hx with rfl | hx
        · show a < i
          omega
        · exact ha x hx

theorem reset_ring_wf : Memory.wf State.reset.ring := by simp [State.reset, Memory.wf]

/-! The occupancy. -/

theorem bytesAvailable_lt {c : Config} {s : State} (hw : s.wr < c.capacity) :
    bytesAvailable c s < c.capacity := by
  unfold bytesAvailable; split <;> omega

/-- The cell the next push goes to lies `bytes_available()` after the read cursor. -/
theorem unreadIndex_available {c : Config} {s : State} (hw : s.wr < c.capacity)
    (hr : s.rd < c.capacity) : unreadIndex c s (bytesAvailable c s) = s.wr := by
  unfold unreadIndex bytesAvailable
  split
  · have : s.rd + (c.capacity - (s.rd - s.wr)) = s.wr + c.capacity := by omega
    rw [this, Nat.add_mod_right, Nat.mod_eq_of_lt hw]
  · have : s.rd + (s.wr - s.rd) = s.wr := by omega
    rw [this, Nat.mod_eq_of_lt hw]

theorem unreadIndex_lt {c : Config} (hc : c.wf) (s : State) (k : Nat) :
    unreadIndex c s k < c.capacity :=
  Nat.mod_lt _ (Nat.lt_of_lt_of_le (by decide) hc.1)

/-- Two offsets below N name two cells. -/
theorem unreadIndex_inj {c : Config} {s : State} {j k : Nat} (hr : s.rd < c.capacity)
    (hj : j < c.capacity) (hk : k < c.capacity) (h : unreadIndex c s j = unreadIndex c s k) : j = k := by
  have split_mod : ∀ x, x < c.capacity →
      unreadIndex c s x = if s.rd + x < c.capacity then s.rd + x else s.rd + x - c.capacity := by
    intro x hx
    unfold unreadIndex
    split
    · next h => exact Nat.mod_eq_of_lt h
    · next h => rw [Nat.mod_eq_sub_mod (by omega), Nat.mod_eq_of_lt (by omega)]
  rw [split_mod j hj, split_mod k hk] at h
  split at h <;> split at h <;> omega

@[simp] theorem bytesAvailable_drawClock (c : Config) (t : Micros) (s : State) :
    bytesAvailable c (drawClock c t s) = bytesAvailable c s := rfl

@[simp] theorem unreadIndex_drawClock (c : Config) (t : Micros) (s : State) (k : Nat) :
    unreadIndex c (drawClock c t s) k = unreadIndex c s k := rfl

@[simp] theorem bytesAvailable_raiseInconsistency (c : Config) (s : State) :
    bytesAvailable c (raiseInconsistency s) = bytesAvailable c s := rfl

/-! push, peek_at, advance_read: each says once everything the operation can do. -/

/-- A push is refused and changes nothing, or stores the byte and moves `wr`. -/
theorem push_cases (c : Config) (b : Byte) (s : State) :
    (bytesAvailable c s = c.capacity - 1 ∧ push c b s = (false, s)) ∨
    (bytesAvailable c s ≠ c.capacity - 1 ∧ push c b s =
      (true, { s with ring := Memory.write s.ring s.wr b, wr := (s.wr + 1) % c.capacity })) := by
  unfold push ringFull
  by_cases h : bytesAvailable c s = c.capacity - 1 <;> simp [h]

theorem push_of_full {c : Config} {s : State} (b : Byte) (h : bytesAvailable c s = c.capacity - 1) :
    push c b s = (false, s) := by
  simp [push, ringFull, h]

theorem push_of_room {c : Config} {s : State} (b : Byte) (h : bytesAvailable c s ≠ c.capacity - 1) :
    push c b s =
      (true, { s with ring := Memory.write s.ring s.wr b, wr := (s.wr + 1) % c.capacity }) := by
  simp [push, ringFull, h]

theorem peekAt_ok {c : Config} {k : Nat} {s : State} {v : Byte} :
    peekAt c k s = .ok v ↔
      k < bytesAvailable c s ∧ Memory.read s.ring (unreadIndex c s k) = some v := by
  unfold peekAt
  split
  · next h => cases hm : Memory.read s.ring (unreadIndex c s k) <;> simp [h]
  · next h => simp [h]

theorem advanceRead_ok {c : Config} {n : Nat} {s t : State} :
    advanceRead c n s = .ok t ↔ n ≤ bytesAvailable c s ∧ t = { s with rd := unreadIndex c s n } := by
  unfold advanceRead
  split <;> simp_all [eq_comm]

/-- The bytes a run of peeks gives, one by one. -/
theorem peekFrom_ok {c : Config} {s : State} {k n : Nat} {bs : List Byte} :
    peekFrom c s k n = .ok bs ↔
      bs.length = n ∧ ∀ j (h : j < bs.length), peekAt c (k + j) s = .ok bs[j] := by
  induction n generalizing k bs with
  | zero =>
    simp only [peekFrom, Except.ok.injEq]
    constructor
    · rintro rfl; simp
    · intro h; exact (List.length_eq_zero_iff.1 h.1).symm
  | succ n ih =>
    simp only [peekFrom]
    constructor
    · intro h
      split at h
      · cases h
      · next b hb =>
        split at h
        · cases h
        · next rest hrest =>
          cases h
          have ⟨hl, hj⟩ := ih.1 hrest
          refine ⟨by simp [hl], fun j hj' => ?_⟩
          cases j with
          | zero => simpa using hb
          | succ j =>
            have := hj j (by simpa using hj')
            simpa [Nat.add_assoc, Nat.add_comm 1 j] using this
    · rintro ⟨hl, hj⟩
      cases bs with
      | nil => simp at hl
      | cons b rest =>
        have h0 : peekAt c k s = .ok b := hj 0 (by simp)
        have hr : peekFrom c s (k + 1) n = .ok rest := by
          refine ih.2 ⟨by simpa using hl, fun j hj' => ?_⟩
          have := hj (j + 1) (by simpa using hj')
          simpa [Nat.add_assoc, Nat.add_comm 1 j] using this
        simp [h0, hr]

end Sys2Proof.Machine
end

