-- ==== Sys2Proof/Laws/Emitter.lean ====
section
/-! SUPPORT. What the emitter, the clock and the sink can do (43_frame_emitter.md, 60_exceptions.md R223,
R232). -/

namespace Sys2Proof.Machine

/-- SinkWrite asks nothing for an empty write; else the sink takes a part from the front, and the session
terminates where it is not all. -/
theorem sinkWrite_cases (c : Config) (bs : List Byte) (s : State) :
    (bs = [] ∧ sinkWrite c bs s = s) ∨
    (bs ≠ [] ∧ bs.length ≤ c.sink s.sinkDraws ∧ sinkWrite c bs s =
      { s with out := s.out ++ bs, sinkDraws := s.sinkDraws + 1 }) ∨
    (bs ≠ [] ∧ c.sink s.sinkDraws < bs.length ∧ sinkWrite c bs s =
      { s with
        out := s.out ++ bs.take (c.sink s.sinkDraws)
        sinkDraws := s.sinkDraws + 1
        term := true
        cause := .sinkClosed }) := by
  by_cases he : bs = []
  · subst he
    exact .inl ⟨rfl, rfl⟩
  · by_cases hk : c.sink s.sinkDraws < bs.length
    · refine .inr (.inr ⟨he, hk, ?_⟩)
      have : min (c.sink s.sinkDraws) bs.length = c.sink s.sinkDraws := by omega
      simp [sinkWrite, he, sinkAnswer, this, hk, terminate]
    · refine .inr (.inl ⟨he, by omega, ?_⟩)
      have : min (c.sink s.sinkDraws) bs.length = bs.length := by omega
      simp [sinkWrite, he, sinkAnswer, this]

/-- emit_one gives the record of the head frame's bytes, at one clock sample, and moves `rd` by the
frame's footprint. -/
theorem emitOne_ok {c : Config} {s t : State} {r : List Byte} :
    emitOne c s = .ok (r, t) ↔ ∃ l payload,
      peekAt c 0 s = .ok l ∧
      peekFrom c (drawClock c s.lastNow s) 1 (includedLength c l) = .ok payload ∧
      footprint l ≤ bytesAvailable c s ∧
      r = recordHeader c (elapsed s.startEpoch (clockSample c s.lastNow s.clockDraws)) l ++ payload ∧
      t = { drawClock c s.lastNow s with rd := unreadIndex c s (footprint l) } := by
  constructor
  · intro h
    unfold emitOne at h
    split at h
    · cases h
    · next l hl =>
      dsimp only at h
      split at h
      · cases h
      · next payload hp =>
        split at h
        · cases h
        · next s2 hs2 =>
          have ⟨hle, hs⟩ := advanceRead_ok.1 hs2
          cases h
          exact ⟨l, payload, hl, hp, hle, rfl, hs⟩
  · rintro ⟨l, payload, hl, hp, hle, rfl, rfl⟩
    have hadv : advanceRead c (footprint l) (drawClock c s.lastNow s) =
        .ok { drawClock c s.lastNow s with rd := unreadIndex c s (footprint l) } :=
      advanceRead_ok.2 ⟨hle, rfl⟩
    simp only [emitOne, hl, hp, hadv]
    rfl

/-- What every record and the `fi` flag keep, DRAIN's loop keeps. -/
theorem drainLoop_keeps {c : Config} {P : List Byte → State → Prop}
    (hemit : ∀ {bs s r t}, P bs s → emitOne c s = .ok (r, t) → P (bs ++ r) t)
    (hflag : ∀ {bs s}, P bs s → P bs (raiseInconsistency s))
    {fuel : Nat} {bs bs' : List Byte} {s t : State} (hP : P bs s)
    (h : drainLoop c fuel bs s = .ok (bs', t)) : P bs' t := by
  induction fuel generalizing bs s with
  | zero => cases h; exact hP
  | succ fuel ih =>
    unfold drainLoop at h
    dsimp only at h
    split at h
    · cases h; exact hP
    · split at h
      · cases h
      · split at h
        · cases h
          split
          · exact hP
          · exact hflag hP
        · split at h
          · cases h
          · next r s1 he =>
            split at h
            · cases h; exact hemit hP he
            · exact ih (hemit hP he) h

/-- DRAIN does nothing where it is not enabled; else it stops by its loop's fault, or writes what its loop
gathered. -/
theorem drainWith_cases (c : Config) (s : State) :
    (drainEnabled s = false ∧ drainWith c s = .next s) ∨
    (drainEnabled s = true ∧ ∃ f, drainLoop c (bytesAvailable c s) [] s = .error f ∧
      drainWith c s = .fault f) ∨
    (drainEnabled s = true ∧ ∃ bs t, drainLoop c (bytesAvailable c s) [] s = .ok (bs, t) ∧
      drainWith c s = .next (sinkWrite c bs { t with ready := false })) := by
  unfold drainWith
  cases he : drainEnabled s
  · simp
  · cases hl : drainLoop c (bytesAvailable c s) [] s with
    | error f => simp
    | ok p => obtain ⟨bs, t⟩ := p; simp

/-- HDR writes the header at one clock sample, or there is no step. -/
theorem headerNext_cases (c : Config) (s : State) :
    (headerEnabled s = false ∧ headerNext c s = s) ∨
    (headerEnabled s = true ∧ headerNext c s = sinkWrite c globalHeader
      { drawClock c 0 s with startEpoch := clockSample c 0 s.clockDraws, hdrDone := true }) := by
  unfold headerNext
  cases headerEnabled s <;> simp

end Sys2Proof.Machine
end

