-- ==== Sys2Proof/Laws/PerInstr.lean ====
section
/-! SUPPORT. Statements about each instruction as it is encoded, one lemma per constructor. -/

namespace Sys2Proof.Laws.RowWord

/-- The instruction's word has the bits its row of spec/opcode_table.json fixes (30_encoding.md R88), and
its `data` field is the operand (R87, R89). -/
def Statement (i : Instr) : Prop :=
  encode i &&& rowMask i = rowMatch i ∧
    eventData (encode i) = match i with
      | .ing b => b
      | .drain => 0
      | .srcerr => 0

theorem ing_fixed_bits : ∀ b : Byte, (0b00#2 ++ b) &&& 0x300#10 = 0x000#10 := by decide

theorem ing_data : ∀ b : Byte, eventData (0b00#2 ++ b) = b := by decide

theorem ing (b : Byte) : Statement (.ing b) := ⟨ing_fixed_bits b, ing_data b⟩

theorem drain : Statement .drain := ⟨by decide, by decide⟩

theorem srcerr : Statement .srcerr := ⟨by decide, by decide⟩

end Sys2Proof.Laws.RowWord
end

