-- ==== Sys2Proof/Laws/Reassembly.lean ====
section
/-! SUPPORT. What ING can do (41_reassembly_fsm.md R110 to R113). -/

namespace Sys2Proof.Machine

/-- ING takes the arm its state calls for, or there is no step. -/
theorem ingNext_cases (c : Config) (b : Byte) (s : State) :
    (ingEnabled s = false ∧ ingNext c b s = s) ∨
    (ingEnabled s = true ∧ s.fsm = .awaitingLength ∧ ingNext c b s = ingLength c b s) ∨
    (ingEnabled s = true ∧ s.fsm = .capturingBody ∧ s.discard = false ∧ ingNext c b s = ingBody c b s) ∨
    (ingEnabled s = true ∧ s.fsm = .capturingBody ∧ s.discard = true ∧
      ingNext c b s = ingDiscard b s) := by
  unfold ingNext ingArm
  cases he : ingEnabled s <;> cases hf : s.fsm <;> cases hd : s.discard <;> simp

/-- ING never stops: `exec` answers the state `ingNext` gives. -/
theorem ingNext_eq_exec (b : Byte) (s : State) :
    exec (.ing b) s = .next (ingNext Config.machine b s) := rfl

/-- The two outcomes of a length byte: the ring has no room, or it is stored. -/
theorem ingLength_cases (c : Config) (b : Byte) (s : State) :
    (bytesAvailable c s = c.capacity - 1 ∧ ingLength c b s =
      if isDegenerate b then finishDegenerate false (raiseOverrun (startFrame b s))
      else startBody false (raiseOverrun (startFrame b s))) ∨
    (bytesAvailable c s ≠ c.capacity - 1 ∧ ∃ t, push c b (startFrame b s) = (true, t) ∧
      t.ring = Memory.write s.ring s.wr b ∧ t.wr = (s.wr + 1) % c.capacity ∧
      ingLength c b s = if isDegenerate b then finishDegenerate true t else startBody true t) := by
  unfold ingLength
  rcases push_cases c b (startFrame b s) with ⟨ha, hp⟩ | ⟨ha, hp⟩
  · exact .inl ⟨ha, by rw [hp]; rfl⟩
  · exact .inr ⟨ha, _, hp, rfl, rfl, by rw [hp]; rfl⟩

/-- The two outcomes of a body byte: the ring has no room and the frame is dropped, or it is stored. -/
theorem ingBody_cases (c : Config) (b : Byte) (s : State) :
    (bytesAvailable c s = c.capacity - 1 ∧ ingBody c b s =
      if bodyComplete (countBodyByte s) then finishFrame (countBodyByte (dropFrame s))
      else countBodyByte (dropFrame s)) ∨
    (bytesAvailable c s ≠ c.capacity - 1 ∧ ∃ t, push c b s = (true, t) ∧
      t.ring = Memory.write s.ring s.wr b ∧ t.wr = (s.wr + 1) % c.capacity ∧
      ingBody c b s =
        if bodyComplete (countBodyByte s) then finishFrame (countBodyByte t) else countBodyByte t) := by
  unfold ingBody
  rcases push_cases c b s with ⟨ha, hp⟩ | ⟨ha, hp⟩
  · exact .inl ⟨ha, by rw [hp]; rfl⟩
  · exact .inr ⟨ha, _, hp, rfl, rfl, by rw [hp]; rfl⟩

/-- The completion test over the counter before it is incremented, where it cannot wrap. -/
theorem bodyComplete_countBodyByte {s : State} (h : s.cnt.toNat + 2 ≤ s.len.toNat) :
    bodyComplete (countBodyByte s) = decide (s.cnt.toNat + 2 = s.len.toNat) := by
  have hlen := s.len.isLt
  have hcnt : (s.cnt + 1).toNat = s.cnt.toNat + 1 := by
    rw [BitVec.toNat_add]
    exact Nat.mod_eq_of_lt (by simp; omega)
  show ((s.cnt + 1).toNat + 1 == s.len.toNat) = _
  rw [hcnt, Nat.add_assoc]
  rfl

end Sys2Proof.Machine
end

