-- ==== Sys2Proof/Laws/Step.lean ====
section
/-! SUPPORT. What one step can be (60_exceptions.md R228). -/

namespace Sys2Proof.Machine

/-- The input that is taken, the inputs before it, which all must wait, and those after it. -/
theorem selectFirst_some {s : State} {xs : List Input} {y : Input} {ys : List Input}
    (h : selectFirst s xs = some (y, ys)) :
    ∃ pre post, xs = pre ++ y :: post ∧ ys = pre ++ post ∧ selectable s y = true ∧
      ∀ x ∈ pre, selectable s x = false := by
  induction xs generalizing y ys with
  | nil => cases h
  | cons x xs ih =>
    unfold selectFirst at h
    split at h
    · next hx =>
      cases h
      exact ⟨[], xs, rfl, rfl, hx, by simp⟩
    · next hx =>
      split at h
      · cases h
      · next y' ys' hrec =>
        cases h
        obtain ⟨pre, post, h1, h2, h3, h4⟩ := ih hrec
        refine ⟨x :: pre, post, by simp [h1], by simp [h2], h3, ?_⟩
        intro z hz
        rcases List.mem_cons.1 hz with rfl | hz
        · simpa using hx
        · exact h4 z hz

theorem selectFirst_none {s : State} {xs : List Input} :
    selectFirst s xs = none ↔ ∀ x ∈ xs, selectable s x = false := by
  induction xs with
  | nil => simp [selectFirst]
  | cons x xs ih =>
    unfold selectFirst
    split
    · next hx => simp [hx]
    · next hx =>
      cases hrec : selectFirst s xs with
      | none => simpa [hx] using ih.1 hrec
      | some p =>
        simp only [reduceCtorEq, false_iff]
        intro hall
        rw [ih.2 fun z hz => hall z (List.mem_cons_of_mem _ hz)] at hrec
        cases hrec

/-- A DRAIN that is due is enabled. -/
theorem drainEnabled_of_drainDue {c : Config} {s : State} (h : drainDue c s = true) :
    drainEnabled s = true := (Bool.and_eq_true_iff.1 h).1

/-- `pick` names an enabled event that is presented and does not give way, the emitter's own DRAIN, HDR where
it is enabled, RESET, a reserved word, or nothing. -/
theorem pick_cases (c : Config) (s : State) :
    (∃ w i pre post, s.inputs = pre ++ .event w :: post ∧ decode w = .ok i ∧ enabled i s = true ∧
      (∀ x ∈ pre, selectable s x = false) ∧ (givesWay i && drainDue c s) = false ∧
      pick c s = .run i (countTurn i { s with inputs := pre ++ post })) ∨
    (drainEnabled s = true ∧ ((∀ x ∈ s.inputs, selectable s x = false) ∨ drainDue c s = true) ∧
      pick c s = .run .drain (countTurn .drain s)) ∨
    (headerEnabled s = true ∧ frontWaits s = true ∧ pick c s = .header s) ∨
    (∃ pre post, s.inputs = pre ++ .header :: post ∧ headerEnabled s = true ∧
      (∀ x ∈ pre, selectable s x = false) ∧ pick c s = .header { s with inputs := pre ++ post }) ∨
    (∃ pre post, s.inputs = pre ++ .reset :: post ∧ (∀ x ∈ pre, selectable s x = false) ∧
      pick c s = .reset { s with inputs := pre ++ post }) ∨
    (∃ w r pre post, s.inputs = pre ++ .event w :: post ∧ decode w = .error r ∧
      (∀ x ∈ pre, selectable s x = false) ∧ pick c s = .reject r) ∨
    ((headerEnabled s && frontWaits s) = false ∧ drainEnabled s = false ∧
      (∀ x ∈ s.inputs, selectable s x = false) ∧ pick c s = .wait) := by
  unfold pick
  by_cases hh : (headerEnabled s && frontWaits s) = true
  · obtain ⟨h1, h2⟩ := Bool.and_eq_true_iff.1 hh
    exact .inr (.inr (.inl ⟨h1, h2, by simp [hh]⟩))
  · simp only [hh]
    cases hsel : selectFirst s s.inputs with
    | none =>
      have hall := selectFirst_none.1 hsel
      cases hd : drainEnabled s with
      | true => exact .inr (.inl ⟨rfl, .inl hall, by simp⟩)
      | false => exact .inr (.inr (.inr (.inr (.inr (.inr ⟨by simp, rfl, hall, by simp⟩)))))
    | some p =>
      obtain ⟨y, ys⟩ := p
      obtain ⟨pre, post, h1, rfl, h3, h4⟩ := selectFirst_some hsel
      cases y with
      | reset => exact .inr (.inr (.inr (.inr (.inl ⟨pre, post, h1, h4, by simp⟩))))
      | header => exact .inr (.inr (.inr (.inl ⟨pre, post, h1, h3, h4, by simp⟩)))
      | event w =>
        cases hw : decode w with
        | ok i =>
          have : enabled i s = true := by simpa [selectable, hw] using h3
          cases hg : givesWay i && drainDue c s with
          | false => exact .inl ⟨w, i, pre, post, h1, hw, this, h4, hg, by simp [hw, hg]⟩
          | true =>
            have hdue : drainDue c s = true := (Bool.and_eq_true_iff.1 hg).2
            exact .inr (.inl ⟨drainEnabled_of_drainDue hdue, .inr hdue, by simp [hw, hg]⟩)
        | error r => exact .inr (.inr (.inr (.inr (.inr (.inl ⟨w, r, pre, post, h1, hw, h4, by simp [hw]⟩)))))

/-- An event that is not enabled changes nothing. -/
theorem exec_of_not_enabled {i : Instr} {s : State} (h : enabled i s = false) : exec i s = .next s := by
  cases i with
  | ing b => simp only [enabled] at h; simp [exec, execIng, ingNext, h]
  | drain => simp only [enabled] at h; simp [exec, execDrain, drainWith, h]
  | srcerr => simp only [enabled] at h; simp [exec, execSrcerr, h]

end Sys2Proof.Machine
end

