-- ==== Sys2Proof/Laws/Run.lean ====
section
/-! SUPPORT. Laws of the environment and of one step of a run (60_exceptions.md R222, R237). -/

namespace Sys2Proof.Machine

@[simp] theorem arrive_inputs (e : Environment) (n : Nat) (s : State) :
    (arrive e n s).inputs = s.inputs ++ e.arrivals n := rfl
@[simp] theorem arrive_fsm (e : Environment) (n : Nat) (s : State) : (arrive e n s).fsm = s.fsm := rfl
@[simp] theorem arrive_len (e : Environment) (n : Nat) (s : State) : (arrive e n s).len = s.len := rfl
@[simp] theorem arrive_cnt (e : Environment) (n : Nat) (s : State) : (arrive e n s).cnt = s.cnt := rfl
@[simp] theorem arrive_wr (e : Environment) (n : Nat) (s : State) : (arrive e n s).wr = s.wr := rfl
@[simp] theorem arrive_rd (e : Environment) (n : Nat) (s : State) : (arrive e n s).rd = s.rd := rfl
@[simp] theorem arrive_ring (e : Environment) (n : Nat) (s : State) : (arrive e n s).ring = s.ring := rfl
@[simp] theorem arrive_fs (e : Environment) (n : Nat) (s : State) : (arrive e n s).fs = s.fs := rfl
@[simp] theorem arrive_discard (e : Environment) (n : Nat) (s : State) : (arrive e n s).discard = s.discard := rfl
@[simp] theorem arrive_ready (e : Environment) (n : Nat) (s : State) : (arrive e n s).ready = s.ready := rfl
@[simp] theorem arrive_hdrDone (e : Environment) (n : Nat) (s : State) : (arrive e n s).hdrDone = s.hdrDone := rfl
@[simp] theorem arrive_startEpoch (e : Environment) (n : Nat) (s : State) : (arrive e n s).startEpoch = s.startEpoch := rfl
@[simp] theorem arrive_lastNow (e : Environment) (n : Nat) (s : State) : (arrive e n s).lastNow = s.lastNow := rfl
@[simp] theorem arrive_ovr (e : Environment) (n : Nat) (s : State) : (arrive e n s).ovr = s.ovr := rfl
@[simp] theorem arrive_fi (e : Environment) (n : Nat) (s : State) : (arrive e n s).fi = s.fi := rfl
@[simp] theorem arrive_term (e : Environment) (n : Nat) (s : State) : (arrive e n s).term = s.term := rfl
@[simp] theorem arrive_cause (e : Environment) (n : Nat) (s : State) : (arrive e n s).cause = s.cause := rfl
@[simp] theorem arrive_out (e : Environment) (n : Nat) (s : State) : (arrive e n s).out = s.out := rfl
@[simp] theorem arrive_clockDraws (e : Environment) (n : Nat) (s : State) : (arrive e n s).clockDraws = s.clockDraws := rfl
@[simp] theorem arrive_sinkDraws (e : Environment) (n : Nat) (s : State) : (arrive e n s).sinkDraws = s.sinkDraws := rfl
@[simp] theorem arrive_drainWait (e : Environment) (n : Nat) (s : State) : (arrive e n s).drainWait = s.drainWait := rfl
@[simp] theorem arrive_drainTurns (e : Environment) (n : Nat) (s : State) : (arrive e n s).drainTurns = s.drainTurns := rfl

/-- The source's first `m` bytes, split after its first `n`. -/
theorem ByteSource.take_append_drop (src : ByteSource) {n m : Nat} (h : n ≤ m) :
    src.take n ++ (src.take m).drop n = src.take m := by
  have hpre : src.take n = (src.take m).take n := by
    cases src with
    | finite bytes => simp [ByteSource.take, List.take_take, Nat.min_eq_left h]
    | infinite byteAt =>
      simp [ByteSource.take, ← List.map_take, List.take_range, Nat.min_eq_left h]
  rw [hpre, List.take_append_drop]

/-- What has become available grows by the new bytes (60_exceptions.md R222). -/
theorem Environment.take_available_succ (e : Environment) (n : Nat) :
    e.source.take (e.available (n + 1)) = e.source.take (e.available n) ++ e.newBytes n :=
  (e.source.take_append_drop (Nat.le_add_right _ _)).symm

/-- The bytes offered by inputs that follow one another. -/
theorem offeredBytes_append (xs ys : List Input) :
    offeredBytes (xs ++ ys) = offeredBytes xs ++ offeredBytes ys := List.filterMap_append

/-- The bytes a run has consumed after one more step. -/
theorem consumedBytes_succ (e : Environment) (run : Nat → State) (n : Nat) :
    consumedBytes e run (n + 1) = consumedBytes e run n ++ (actionAt e run n).bytes := rfl

/-- What takes one step of a run to the next state: its action (60_exceptions.md R228). -/
theorem run_succ {e : Environment} {run : Nat → State} (h : IsRun e run) (n : Nat) :
    match actionAt e run n with
    | .run i s => exec i s = .next (run (n + 1))
    | .header s => run (n + 1) = headerNext Config.machine s
    | .reset s => run (n + 1) = resetNext s
    | .reject _ => False
    | .wait => run (n + 1) = arrive e n (run n) := by
  have hstep := h n
  unfold step at hstep
  unfold actionAt
  split at hstep <;> simp_all

end Sys2Proof.Machine
end

