-- ==== Sys2Proof/Tests/Slice0.lean ====
section
/-! SUPPORT. The model's own tests: the vectors of 95_test_vectors.md, each worked out there, and for every
obligation with hypotheses a witness that meets them all. -/

namespace Sys2Proof.Tests

open Sys2Proof.Machine

/-! ## Helpers -/

/-- A configuration of the vectors: CW = 2, the given N, a clock that ticks by 10, a sink that takes all. -/
def cfg (n : Nat) : Config :=
  ⟨n, 2, fun k => BitVec.ofNat 64 (10 * k + 10), fun _ => 1000, fun _ => 1⟩

/-- The same with a sink that takes `k` bytes of every write. -/
def cfgSink (n k : Nat) : Config := ⟨n, 2, fun _ => 10, fun _ => k, fun _ => 1⟩

/-- The state after HDR, without its output. -/
def live : State := { State.reset with hdrDone := true }

/-- A live state with the given cursors. -/
def at' (wr rd : Nat) : State := { live with wr := wr, rd := rd }

/-- A live state that is capturing a body. -/
def capturing (len cnt : Byte) (fs wr rd : Nat) : State :=
  { live with fsm := .capturingBody, len := len, cnt := cnt, fs := fs, wr := wr, rd := rd }

/-- The live state with one complete degenerate frame, [01], at the head of the ring. -/
def oneFrame : State := { live with ring := [(0, 0x01)], wr := 1, len := 1, ready := true }

/-- The live state with the first byte of the frame [02, ..] stored. -/
def oneByteIn : State :=
  { live with ring := [(0, 0x02)], wr := 1, len := 2, fsm := .capturingBody }

/-- A full ring at whatever N the hardware has. -/
def fullRing : State := at' (Config.machine.capacity - 1) 0

/-! ## Well-formed and ill-formed terms (30_encoding.md R89, R93, R94) -/

theorem test_wf_accepts :
    (Instr.ing 0xFF).wf = true ∧ (⟨.ing, [255]⟩ : AsmLine).wf = true ∧
    (⟨.drain, []⟩ : AsmLine).wf = true ∧ (⟨.srcerr, []⟩ : AsmLine).wf = true ∧
    (⟨.bytes, [0, 255]⟩ : AsmLine).wf = true ∧
    (⟨.frame, List.replicate 254 0⟩ : AsmLine).wf = true := by decide +kernel

theorem test_wf_refuses_operand_out_of_range :
    (⟨.ing, [256]⟩ : AsmLine).wf = false ∧ (⟨.bytes, [1, 256]⟩ : AsmLine).wf = false ∧
    (⟨.frame, [256]⟩ : AsmLine).wf = false := by decide

theorem test_wf_refuses_wrong_operand_count :
    (⟨.ing, []⟩ : AsmLine).wf = false ∧ (⟨.ing, [1, 2]⟩ : AsmLine).wf = false ∧
    (⟨.drain, [1]⟩ : AsmLine).wf = false ∧ (⟨.srcerr, [0]⟩ : AsmLine).wf = false ∧
    (⟨.frame, List.replicate 255 0⟩ : AsmLine).wf = false := by decide +kernel

/-! ## Decode and the assembler (95_test_vectors.md section 2.5; 30_encoding.md R87 to R94) -/

theorem test_decode_rows :
    decode 0b00_0000_0000#10 = .ok (.ing 0x00) ∧ decode 0b00_1111_1111#10 = .ok (.ing 0xFF) ∧
    decode 0b01_0000_0000#10 = .ok .drain ∧ decode 0b10_0000_0000#10 = .ok .srcerr := by decide

theorem test_decode_reserved :
    decode 0b01_0000_0001#10 = .error .drainData ∧ decode 0b10_1111_1111#10 = .error .srcerrData ∧
    decode 0b11_0000_0000#10 = .error .kind3 ∧ decode 0b11_1111_1111#10 = .error .kind3 := by decide

theorem test_table_words :
    decodeTableWord 16 0x005 = some (.ing 0x05) ∧ decodeTableWord 16 0x100 = some .drain ∧
    decodeTableWord 16 0x200 = some .srcerr ∧ decodeTableWord 16 0x101 = none := by decide

/-- Program P1's source and its words. -/
theorem test_assemble_P1 :
    assemble ["FRAME 0xAA, 0xBB, 0xCC, 0xDD ; one frame".toList, "drain".toList] =
      .ok [0x005#10, 0x0AA#10, 0x0BB#10, 0x0CC#10, 0x0DD#10, 0x100#10] := by decide

/-- Program P7's source and its words. -/
theorem test_assemble_P7 :
    assemble ["FRAME 1,2,3".toList, "BYTES 5, 9".toList, "SRCERR".toList] =
      .ok [0x004#10, 0x001#10, 0x002#10, 0x003#10, 0x005#10, 0x009#10, 0x200#10] := by decide

theorem test_assemble_rejects :
    assembleLine "ING 256".toList = .error .badOperands ∧
    assembleLine "DRAIN 0".toList = .error .badOperands ∧
    assembleLine "ING zz".toList = .error .badNumber ∧
    assembleLine "NOP".toList = .error .unknownMnemonic := by decide

/-! ## The ring buffer (95_test_vectors.md section 2.1, V1 to V12, and L1.4) -/

theorem test_available_V1_V3 :
    bytesAvailable (cfg 16) (at' 0 0) = 0 ∧ bytesAvailable (cfg 16) (at' 3 10) = 9 ∧
    bytesAvailable (cfg 16) (at' 4 8) = 12 := by decide

theorem test_push_V2_V12 :
    push (cfg 16) 0x07 (at' 15 4) = (true, { at' 0 4 with ring := [(15, 0x07)] }) ∧
    bytesAvailable (cfg 16) (at' 0 4) = 12 ∧
    push (cfg 10) 0x00 (at' 9 2) = (true, { at' 0 2 with ring := [(9, 0x00)] }) ∧
    push (cfg 2) 0xAA (at' 0 0) = (true, { at' 1 0 with ring := [(0, 0xAA)] }) := by decide

theorem test_push_V4_V11 :
    push (cfg 16) 0x01 (at' 3 4) = (false, at' 3 4) ∧
    push (cfg 2) 0xBB (at' 1 0) = (false, at' 1 0) := by decide

theorem test_push_V5 :
    (push (cfg 16) 2 (push (cfg 16) 1 (at' 14 14)).2).2 =
      { at' 0 14 with ring := [(14, 1), (15, 2)] } := by decide

/-- V6, and R26's and R142's faults. -/
theorem test_peek_V6 :
    peekAt (cfg 16) 3 { at' 5 14 with ring := [(1, 0x5A)] } = .ok 0x5A ∧
    peekAt (cfg 16) 3 (at' 5 14) = .error (.unwrittenCell 1) ∧
    peekAt (cfg 16) 7 (at' 5 14) = .error (.peekBeyondUnread 7) := by decide

theorem test_advance_V7_V8 :
    advanceRead (cfg 16) 9 (at' 3 10) = .ok (at' 3 3) ∧
    advanceRead (cfg 16) 0 (at' 3 10) = .ok (at' 3 10) ∧
    advanceRead (cfg 16) 10 (at' 3 10) = .error (.advanceBeyondUnread 10) := by decide

theorem test_rollback_V9 :
    rollback { at' 7 0 with fs := 5 } = { at' 5 0 with fs := 5 } ∧
    bytesAvailable (cfg 8) (at' 5 0) = 5 := by decide

theorem test_memory_write :
    Memory.write [(1, 10), (3, 30)] 2 20 = [(1, 10), (2, 20), (3, 30)] ∧
    Memory.write [(1, 10), (3, 30)] 3 31 = [(1, 10), (3, 31)] ∧
    ¬ Memory.wf [(3, 30), (1, 10)] ∧ ¬ Memory.wf [(1, 10), (1, 10)] := by decide

/-! ## ING (95_test_vectors.md section 2.2, F1 to F14) -/

theorem test_ing_F1_F6_F12 :
    ingNext (cfg 256) 0x05 (at' 0 0) = { capturing 5 0 0 1 0 with ring := [(0, 0x05)] } ∧
    (ingNext (cfg 256) 0x02 (at' 0 0)).fsm = .capturingBody ∧
    (ingNext (cfg 256) 0xFF (at' 0 0)).len = 255 := by decide

theorem test_ing_F2_F3 :
    ingNext (cfg 256) 0xDD (capturing 5 3 0 4 0) =
      { capturing 5 4 0 5 0 with fsm := .awaitingLength, ring := [(4, 0xDD)], ready := true } ∧
    ingNext (cfg 256) 0x05 (capturing 5 2 0 3 0) =
      { capturing 5 3 0 4 0 with ring := [(3, 0x05)] } := by decide

theorem test_ing_F4_F5 :
    ingNext (cfg 256) 0x00 (at' 3 0) =
      { at' 4 0 with fs := 3, ring := [(3, 0x00)], ready := true } ∧
    ingNext (cfg 256) 0x01 (at' 3 0) =
      { at' 4 0 with len := 1, fs := 3, ring := [(3, 0x01)], ready := true } := by decide

theorem test_ing_F7_F8 :
    ingNext (cfg 8) 0x06 (at' 7 0) =
      { capturing 6 0 7 7 0 with discard := true, ovr := true, fi := true } ∧
    ingNext (cfg 8) 0x01 (at' 7 0) =
      { at' 7 0 with len := 1, fs := 7, ovr := true, fi := true } := by decide

theorem test_ing_F9_F10 :
    ingNext (cfg 8) 0x08 (capturing 6 1 5 7 0) =
      { capturing 6 2 5 5 0 with discard := true, ovr := true, fi := true } ∧
    ingNext (cfg 8) 0x0B { capturing 6 4 5 5 0 with discard := true } =
      { capturing 6 5 5 5 0 with fsm := .awaitingLength } := by decide

theorem test_ing_F11 :
    ingNext (cfg 8) 0xE2 (capturing 3 1 5 7 0) =
      { capturing 3 2 5 5 0 with fsm := .awaitingLength, ovr := true, fi := true } := by decide

theorem test_ing_F13_F14 :
    ingNext (cfg 8) 0x05 { live with term := true } = { live with term := true } ∧
    ingNext (cfg 8) 0x05 State.reset = State.reset ∧
    step { live with term := true, inputs := [.event 0x005#10] } =
      .next { live with term := true, inputs := [.event 0x005#10] } := ⟨rfl, rfl, rfl⟩

/-! ## The emitter (95_test_vectors.md section 2.3, L1.2, L1.5) -/

theorem test_lengths_E1_E7 :
    footprint 0 = 1 ∧ includedLength (cfg 256) 0 = 0 ∧ includedLength (cfg 256) 1 = 0 ∧
    includedLength (cfg 256) 3 = 0 ∧ includedLength (cfg 256) 4 = 1 ∧
    footprint 255 = 255 ∧ includedLength (cfg 256) 255 = 252 ∧ originalLength 255 = 255 := by decide

theorem test_lengths_E8_E11 :
    includedLength { cfg 256 with checksumWidth := 0 } 3 = 2 ∧
    includedLength { cfg 256 with checksumWidth := 0 } 1 = 0 ∧
    includedLength { cfg 256 with checksumWidth := 9 } 10 = 0 ∧
    includedLength { cfg 256 with checksumWidth := 254 } 10 = 0 := by decide

theorem test_timestamp_T2_T4 :
    le32 (seconds 999999) ++ le32 (microseconds 999999) =
      [0x00, 0x00, 0x00, 0x00, 0x3F, 0x42, 0x0F, 0x00] ∧
    le32 (seconds 1234567) ++ le32 (microseconds 1234567) =
      [0x01, 0x00, 0x00, 0x00, 0x47, 0x94, 0x03, 0x00] := by decide

theorem test_timestamp_T5_T6 :
    le32 (seconds 4294967295999999) ++ le32 (microseconds 4294967295999999) =
      [0xFF, 0xFF, 0xFF, 0xFF, 0x3F, 0x42, 0x0F, 0x00] ∧
    le32 (seconds 4294967296000005) ++ le32 (microseconds 4294967296000005) =
      [0x00, 0x00, 0x00, 0x00, 0x05, 0x00, 0x00, 0x00] := by decide

/-- L1.2: the frame 05 AA BB CC DD at e = 1234567. -/
theorem test_record_L1_2 :
    (emitOne { cfg 256 with clock := fun _ => 1234567 }
      { at' 5 0 with ring := [(0, 0x05), (1, 0xAA), (2, 0xBB), (3, 0xCC), (4, 0xDD)] }).map Prod.fst =
    .ok [0x01, 0x00, 0x00, 0x00, 0x47, 0x94, 0x03, 0x00, 0x02, 0x00, 0x00, 0x00,
      0x05, 0x00, 0x00, 0x00, 0xAA, 0xBB] := by decide

/-- The state a meaning leaves, for a test to look at. -/
def after : Host.Outcome State Fault Refusal → Option State
  | .next s => some s
  | _ => none

/-- D1 and X5: with an empty ring DRAIN only clears `ready`. -/
theorem test_drain_D1 :
    after (drainWith (cfg 16) { at' 3 3 with ready := true }) = some (at' 3 3) := by decide

/-- D2, D3: two frames, [01] and [02 77], are both emitted. -/
theorem test_drain_D2_D3 :
    (after (drainWith (cfg 16)
      { at' 3 0 with ready := true, ring := [(0, 0x01), (1, 0x02), (2, 0x77)] })).map
        (fun s => (s.rd, s.ready, s.lastNow, s.out.length)) = some (3, false, 20, 32) := by decide

/-- D4: the head frame is the frame in progress. -/
theorem test_drain_D4 :
    after (drainWith (cfg 16) { capturing 4 1 3 5 3 with ready := true, ring := [(3, 4), (4, 0xB1)] }) =
      some { capturing 4 1 3 5 3 with ring := [(3, 4), (4, 0xB1)] } := by decide

/-- D5: the head frame is short and is not the frame in progress. -/
theorem test_drain_D5 :
    after (drainWith (cfg 16) { at' 5 3 with ready := true, ring := [(3, 4), (4, 0xB1)] }) =
      some { at' 5 3 with fi := true, ring := [(3, 4), (4, 0xB1)] } := by decide

/-- L1.5: N = 16, rd = 10, a frame of L = 9 that wraps. -/
theorem test_drain_L1_5 :
    (after (drainWith (cfg 16) { at' 3 10 with ready := true, ring :=
      [(0, 0xA5), (1, 0xA6), (2, 0xA7), (10, 9), (11, 0xA0), (12, 0xA1), (13, 0xA2), (14, 0xA3),
        (15, 0xA4)] })).map (fun s => (s.rd, s.out.drop 16)) =
      some (3, [0xA0, 0xA1, 0xA2, 0xA3, 0xA4, 0xA5]) := by decide

/-! ## Errors, termination, reset, status (95_test_vectors.md section 2.4 and the programs' STATUS words) -/

theorem test_srcerr_X1_X2 :
    after (execSrcerr live) = some { live with term := true, cause := .sourceUnavailable } ∧
    after (execSrcerr State.reset) =
      some { State.reset with term := true, cause := .sourceUnavailable } := by decide

/-- X3 and program P9. -/
theorem test_header_X3 :
    (headerNext (cfgSink 256 10) State.reset).out =
      [0xD4, 0xC3, 0xB2, 0xA1, 0x02, 0x00, 0x04, 0x00, 0x00, 0x00] ∧
    status (headerNext (cfgSink 256 10) State.reset) = 0x0148#16 := by decide

/-- X4 and program P5. -/
theorem test_drain_X4 :
    (after (drainWith (cfgSink 256 7) { at' 5 0 with ready := true, ring :=
      [(0, 0x05), (1, 0xAA), (2, 0xBB), (3, 0xCC), (4, 0xDD)] })).map
        (fun s => (s.out, status s, s.rd)) =
      some ([0x00, 0x00, 0x00, 0x00, 0x0A, 0x00, 0x00], 0x0148#16, 5) := by decide

theorem test_terminated_X6 :
    after (exec (.ing 1) { live with term := true }) = some { live with term := true } ∧
    after (exec .drain { oneFrame with term := true }) = some { oneFrame with term := true } ∧
    after (exec .srcerr { live with term := true }) = some { live with term := true } := by decide

theorem test_reset_X7 :
    after (step { oneFrame with term := true, cause := .sinkClosed, inputs := [.reset] }) =
      some { State.reset with drainTurns := 1 } ∧ status State.reset = 0x0000#16 := by decide

/-- The STATUS words of programs P1, P2, P4 and P7. -/
theorem test_status_words :
    status { live with ready := true } = 0x000C#16 ∧
    status { live with ready := true, fsm := .capturingBody } = 0x000D#16 ∧
    status { live with ready := true, fsm := .capturingBody, discard := true, ovr := true, fi := true } =
      0x003F#16 ∧
    status { live with ready := true, fsm := .capturingBody, term := true, cause := .sourceUnavailable } =
      0x00CD#16 := by decide

/-! ## The step -/

theorem test_fetch_words :
    after (step (State.reset.withFetchWord 16 0x001)) =
      after (exec (.ing 0x01) { State.reset with hdrDone := true }) ∧
    after (step (State.reset.withFetchWord 16 0x200)) =
      some { State.reset with term := true, cause := .sourceUnavailable } := by
  constructor <;> rfl

theorem test_fetch_drain :
    after (step (State.reset.withFetchWord 16 0x100)) = some { live with drainTurns := 1 } := by rfl

/-- R263: with nothing presented the first step after reset is HDR. -/
theorem test_first_step : pick Config.machine State.reset = .header State.reset := by decide

/-- R237: an ING goes before an enabled DRAIN as long as the bound, 1 in `cfg`, allows, and not longer. -/
theorem test_ing_gives_way :
    (let s := { oneFrame with inputs := [.event 0x002#10], drainWait := 1 }
     pick (cfg 8) s = .run (.ing 2) { s with inputs := [], drainWait := 2 }) ∧
    (let s := { oneFrame with inputs := [.event 0x002#10], drainWait := 2 }
     pick (cfg 8) s = .run .drain { s with drainWait := 0, drainTurns := 1 }) := by decide

/-- R237: DRAIN being enabled gives SRCERR and RESET no delay. -/
theorem test_srcerr_and_reset_do_not_wait :
    (let s := { oneFrame with inputs := [.event 0x200#10], drainWait := 9 }
     pick (cfg 8) s = .run .srcerr { s with inputs := [] }) ∧
    (let s := { oneFrame with inputs := [.reset], drainWait := 9 }
     pick (cfg 8) s = .reset { s with inputs := [] }) := by decide

/-- R237: a RESET ends a wait, and the next wait has another bound. -/
theorem test_reset_starts_a_new_wait :
    let s := { oneFrame with drainWait := 3, drainTurns := 4 }
    (resetNext s).drainWait = 0 ∧ (resetNext s).drainTurns = 5 := by decide

/-! ## Environments (60_exceptions.md R222) -/

/-- Nothing is ever put forward. -/
def quiet : Environment := ⟨.finite [], fun _ => 0, fun _ => []⟩

/-- A byte source without end, one byte more before each step: 0, 1, 2, and so on. -/
def endless : Environment := ⟨.infinite fun n => BitVec.ofNat 8 n, fun _ => 1, fun _ => []⟩

/-- The source has a next byte at every step, and a finite source has none after its last. -/
theorem test_sources :
    endless.arrivals 7 = [.event 0x007#10] ∧ endless.source.take 3 = [0, 1, 2] ∧
    (ByteSource.finite [5, 6]).take 3 = [5, 6] := by decide

/-- A step consumes the byte that has arrived. -/
theorem test_endless_source_is_consumed :
    (actionAt endless (fun _ => live) 3).bytes = [3] ∧
    after (step (arrive endless 3 live)) = after (exec (.ing 3) live) := ⟨rfl, rfl⟩

/-! ## Witnesses: states and operands that meet all the hypotheses of a statement -/

theorem test_witness_DecodeSelectsTheMatchingRow :
    0x0A5#10 &&& rowMask (.ing 0xA5) = rowMatch (.ing 0xA5) ∧
    0x0A5#10 &&& rowMask (.ing 0x00) = rowMatch (.ing 0x00) ∧
    0x100#10 &&& rowMask .drain = rowMatch .drain := by decide

theorem test_witness_DecodeAndEncodeAreInverse :
    (Instr.ing 0xFF).wf = true ∧ Instr.drain.wf = true ∧ Instr.srcerr.wf = true ∧
    decode 0x0FF#10 = .ok (.ing 0xFF) := by decide

theorem test_witness_ReservedWordsAreRefused :
    (0x100 < (0x101#10).toNat ∧ (0x1FF#10).toNat < 0x200) ∧
    (0x200 < (0x201#10).toNat ∧ (0x2FF#10).toNat < 0x300) ∧
    (0x300 ≤ (0x300#10).toNat ∧ 0x300 ≤ (0x3FF#10).toNat) ∧ decode 0x1FF#10 = .error .drainData ∧
    decode 0x201#10 = .error .srcerrData ∧
    ({ live with inputs := [.event 0x1FF#10] } : State).inputs = .event 0x1FF#10 :: [] := by decide

theorem test_witness_PseudoInstructionsExpand :
    ([0, 255] : List Nat) ≠ [] ∧ (∀ n ∈ [0, 255], n ≤ 255) ∧
    (List.replicate 254 (255 : Nat)).length ≤ 254 ∧ (∀ n ∈ List.replicate 254 (255 : Nat), n ≤ 255) ∧
    254 < (List.replicate 255 (0 : Nat)).length := by decide +kernel

theorem test_witness_AssembledWordsDecode :
    assemble ["ING 0xff".toList, "".toList, "SRCERR".toList] = .ok [0x0FF#10, 0x200#10] := by decide

theorem test_witness_StepRunsTheDecodedEvent :
    let s := { oneFrame with inputs := [.event 0x100#10] }
    s.inputs = .event 0x100#10 :: [] ∧ decode 0x100#10 = .ok .drain ∧ enabled .drain s = true ∧
    givesWay .drain = false := by decide

/-- An ING where no DRAIN is due, and where one is, whatever the free bound. -/
theorem test_witness_StepRunsTheDecodedEvent_due :
    (let s := { live with inputs := [.event 0x002#10] }
     decode 0x002#10 = .ok (.ing 2) ∧ enabled (.ing 2) s = true ∧ drainDue Config.machine s = false) ∧
    (let s := { oneFrame with
       inputs := [.event 0x002#10], drainWait := Config.machine.patience 0 + 1 }
     enabled (.ing 2) s = true ∧ givesWay (.ing 2) = true ∧ drainDue Config.machine s = true) := by
  refine ⟨⟨rfl, rfl, rfl⟩, rfl, rfl, ?_⟩
  simp only [drainDue, Bool.and_eq_true, decide_eq_true_eq]
  exact ⟨rfl, Nat.lt_succ_self _⟩

theorem test_witness_InputIsConsumedInDeliveryOrder :
    (∃ t, step { live with inputs := [.event 0x005#10] } = .next t) ∧
    (let s := { live with term := true, inputs := [.event 0x005#10] }
     ingEnabled s = false ∧ step s = .next s) :=
  ⟨⟨_, rfl⟩, rfl, rfl⟩

theorem test_witness_EventNotEnabledStaysAtTheFront :
    let s := { live with inputs := [.event 0x100#10] }
    enabled .drain s = false ∧ enabled (.ing 0) State.reset = false ∧ decode 0x100#10 = .ok .drain ∧
      step s = .next s :=
  ⟨rfl, rfl, rfl, rfl⟩

theorem test_witness_HeaderComesBeforeAnyEvent :
    let s := { State.reset with inputs := [.event 0x005#10] }
    headerEnabled s = true ∧ ¬ presents .srcerr s.inputs ∧ ¬ presentsReserved s.inputs ∧
      .reset ∉ s.inputs ∧ ∃ t, step s = .next t := by
  have h : decode 0x005#10 = .ok (.ing 0x05) := rfl
  refine ⟨rfl, ?_, ?_, by decide, _, rfl⟩ <;> simp [presents, presentsReserved, h]

theorem test_witness_QuietMachineMovesByItself :
    (State.reset.inputs = [] ∧ headerEnabled State.reset = true) ∧
    (oneFrame.inputs = [] ∧ drainEnabled oneFrame = true) ∧
    (live.inputs = [] ∧ headerEnabled live = false ∧ drainEnabled live = false) := by decide

theorem test_witness_TerminatedStateIsFinal :
    let s := { live with term := true, cause := .sinkClosed, inputs := [.event 0x005#10] }
    s.term = true ∧ .reset ∉ s.inputs ∧ ¬ presentsReserved s.inputs ∧
    ({ s with inputs := [.event 0x005#10] ++ .reset :: [] } : State).term = true := by
  have h : decode 0x005#10 = .ok (.ing 0x05) := rfl
  exact ⟨rfl, by decide, by simp [presentsReserved, h], rfl⟩

theorem test_witness_RunEndsTerminatedOrIdle :
    pick Config.machine live = .wait ∧ pick Config.machine { live with term := true } = .wait ∧ idleAtEnd live ∧
      pick Config.machine oneFrame ≠ .wait := by
  refine ⟨rfl, rfl, ⟨rfl, rfl, rfl, ?_, ?_⟩, by decide⟩ <;> simp [presents, live, State.reset]

theorem test_witness_ResetIsTakenInEveryState :
    let s := { oneFrame with term := true, inputs := [.reset, .event 0x001#10] }
    s.inputs = .reset :: [.event 0x001#10] := rfl

theorem test_full_ring : bytesAvailable Config.machine fullRing = Config.machine.capacity - 1 := by
  simp [bytesAvailable, fullRing, at']

theorem test_witness_IngLengthByte :
    (ingEnabled live = true ∧ live.fsm = .awaitingLength ∧
      bytesAvailable Config.machine live ≠ Config.machine.capacity - 1) ∧
    (ingEnabled fullRing = true ∧ fullRing.fsm = .awaitingLength ∧
      bytesAvailable Config.machine fullRing = Config.machine.capacity - 1) :=
  ⟨⟨rfl, rfl, by simp [bytesAvailable, live, State.reset, Config.machine]⟩, rfl, rfl, test_full_ring⟩

theorem test_witness_IngBodyByte :
    (let s := capturing 2 0 0 0 0
     ingEnabled s = true ∧ s.fsm = .capturingBody ∧ s.discard = false ∧ s.cnt.toNat + 2 ≤ s.len.toNat ∧
      bytesAvailable Config.machine s ≠ Config.machine.capacity - 1) ∧
    (let s := capturing 255 252 0 (Config.machine.capacity - 1) 0
     ingEnabled s = true ∧ s.fsm = .capturingBody ∧ s.discard = false ∧ s.cnt.toNat + 2 ≤ s.len.toNat ∧
      bytesAvailable Config.machine s = Config.machine.capacity - 1) := by
  refine ⟨⟨rfl, rfl, rfl, by decide, ?_⟩, rfl, rfl, rfl, by simp [capturing], ?_⟩ <;>
    simp [bytesAvailable, capturing, Config.machine]

theorem test_witness_IngDiscardedByte :
    let s := { capturing 2 0 0 0 0 with discard := true }
    ingEnabled s = true ∧ s.fsm = .capturingBody ∧ s.discard = true ∧
      s.cnt.toNat + 2 ≤ s.len.toNat := by decide

theorem test_witness_IngFrame :
    (∃ t, exec (.ing 5) live = .next t) ∧ ingEnabled State.reset = false ∧
    ({ capturing 2 0 0 0 0 with discard := true } : State).discard = true ∧
    bytesAvailable Config.machine fullRing = Config.machine.capacity - 1 :=
  ⟨⟨_, rfl⟩, rfl, rfl, test_full_ring⟩

theorem test_witness_IngOverwritesNoUnreadByte :
    oneFrame.wr < Config.machine.capacity ∧ oneFrame.rd < Config.machine.capacity ∧
    (∃ t, exec (.ing 5) oneFrame = .next t) ∧ 0 < bytesAvailable Config.machine oneFrame := by
  refine ⟨?_, ?_, ⟨_, rfl⟩, by decide⟩ <;> simp [oneFrame, live, State.reset, Config.machine]

/-- A frame of three bytes that fits exactly into the three bytes of room left, across the wrap. -/
theorem test_witness_FrameIsStoredWhole :
    let s := at' 6 2
    (cfg 8).wf ∧ s.wr < (cfg 8).capacity ∧ s.rd < (cfg 8).capacity ∧ ingEnabled s = true ∧
    s.fsm = .awaitingLength ∧ 2 ≤ (3 : Byte).toNat ∧ [(1 : Byte), 2].length + 1 = (3 : Byte).toNat ∧
    bytesAvailable (cfg 8) s + (3 : Byte).toNat ≤ (cfg 8).capacity - 1 ∧
    (0 < 2 ∧ 2 < (3 : Byte).toNat) ∧ 3 < bytesAvailable (cfg 8) s := by decide

/-- A frame of four bytes where three are left, and a degenerate frame where none is. -/
theorem test_witness_FrameWithoutRoomIsDropped :
    (cfg 8).wf ∧ (at' 7 0).wr < (cfg 8).capacity ∧ (at' 7 0).rd < (cfg 8).capacity ∧
    ingEnabled (at' 4 0) = true ∧ (at' 4 0).fsm = .awaitingLength ∧
    ingEnabled (at' 7 0) = true ∧ (at' 7 0).fsm = .awaitingLength ∧
    [(1 : Byte), 2, 3].length + 1 = max (4 : Byte).toNat 1 ∧
    8 - 1 < bytesAvailable (cfg 8) (at' 4 0) + max (4 : Byte).toNat 1 ∧
    ([] : List Byte).length + 1 = max (0 : Byte).toNat 1 ∧
    8 - 1 < bytesAvailable (cfg 8) (at' 7 0) + max (0 : Byte).toNat 1 := by decide

theorem test_witness_PushStoresOrRefuses :
    ((cfg 8).wf ∧ (at' 7 0).wr < (cfg 8).capacity ∧ (at' 7 0).rd < (cfg 8).capacity ∧
      bytesAvailable (cfg 8) (at' 7 0) = (cfg 8).capacity - 1) ∧
    ((at' 7 1).wr < (cfg 8).capacity ∧ (at' 7 1).rd < (cfg 8).capacity ∧
      bytesAvailable (cfg 8) (at' 7 1) ≠ (cfg 8).capacity - 1) := by decide

theorem test_witness_AvailableIsDifferenceModN :
    (at' 0 15).wr < (cfg 16).capacity ∧ (at' 0 15).rd < (cfg 16).capacity := by decide

theorem test_witness_PeekReadsTheUnreadByte :
    (let s := { at' 1 15 with ring := [(0, 0x5A), (15, 0x07)] }
     s.rd < (cfg 16).capacity ∧ 1 < (cfg 16).capacity ∧ 1 < bytesAvailable (cfg 16) s ∧
     Memory.read s.ring (if s.rd + 1 < 16 then s.rd + 1 else s.rd + 1 - 16) = some 0x5A ∧
     Memory.read s.ring (if s.rd + 0 < 16 then s.rd + 0 else s.rd + 0 - 16) = some 0x07) ∧
    (bytesAvailable (cfg 16) (at' 0 15) ≤ 1 ∧ (at' 0 15).rd < (cfg 16).capacity) := by decide

theorem test_witness_AdvanceReadConsumes :
    (at' 3 10).wr < (cfg 16).capacity ∧ (at' 3 10).rd < (cfg 16).capacity ∧
    9 ≤ bytesAvailable (cfg 16) (at' 3 10) ∧ bytesAvailable (cfg 16) (at' 3 10) < 10 := by decide

/-! The invariant's witnesses, at the hardware's own N. -/

/-- No unread byte, no frame in progress, whatever the flags: the invariant holds. -/
theorem test_consistent_empty (c : Config) (s : State) (hc : 0 < c.capacity) (hwr : s.wr = 0)
    (hrd : s.rd = 0) (hfs : s.fs = 0) (hring : s.ring = []) (hfsm : s.fsm = .awaitingLength)
    (hd : s.discard = false) (he : s.startEpoch ≤ s.lastNow) (ht : s.term = true ↔ s.cause ≠ .none) :
    Consistent c s where
  wr_lt := by omega
  rd_lt := by omega
  fs_lt := by omega
  ring_wf := by simp [hring, Memory.wf]
  ring_lt := by simp [hring]
  discard_capturing := by simp [hd]
  capturing := by simp [hfsm]
  framed := ⟨[], [], ⟨by simp, by simp [unreadCells, bytesAvailable, hwr, hrd], by simp [hfsm],
    fun _ => rfl⟩, fun _ => rfl⟩
  epoch_le := fun _ => he
  term_cause := ht

theorem test_consistent_live : Consistent Config.machine live :=
  test_consistent_empty _ _ (by simp [Config.machine]) rfl rfl rfl rfl rfl rfl (by decide) (by decide)

theorem test_framed_oneFrame (c : Config) : Framed c oneFrame [[0x01]] [] where
  whole := by decide
  cells := by
    simp [unreadCells, bytesAvailable, oneFrame, live, State.reset, unreadIndex, Memory.read]
  storing := by simp [oneFrame, live, State.reset]
  notStoring := fun _ => rfl

theorem test_consistent_oneFrame (c : Config) (hc : c.wf) : Consistent c oneFrame where
  wr_lt := by simp [oneFrame]; omega
  rd_lt := by simp [oneFrame, live, State.reset]; omega
  fs_lt := by simp [oneFrame, live, State.reset]; omega
  ring_wf := by decide
  ring_lt := by simp [oneFrame]; omega
  discard_capturing := by decide
  capturing := by decide
  framed := ⟨_, _, test_framed_oneFrame c, by decide⟩
  epoch_le := by decide
  term_cause := by decide

/-- The first byte of a frame is stored after the complete frame [01]. -/
def frameAndByte : State :=
  { live with ring := [(0, 0x01), (1, 0x02)], wr := 2, fs := 1, len := 2, fsm := .capturingBody,
              ready := true }

theorem test_framed_frameAndByte : Framed (cfg 8) frameAndByte [[0x01]] [0x02] where
  whole := by decide
  cells := by decide
  storing := by decide
  notStoring := by decide

theorem test_consistent_frameAndByte : Consistent (cfg 8) frameAndByte where
  wr_lt := by decide
  rd_lt := by decide
  fs_lt := by decide
  ring_wf := by decide
  ring_lt := by decide
  discard_capturing := by decide
  capturing := by decide
  framed := ⟨_, _, test_framed_frameAndByte, by decide⟩
  epoch_le := by decide
  term_cause := by decide

theorem test_witness_RollbackLeavesTheCompleteFrames :
    Consistent (cfg 8) frameAndByte ∧ Framed (cfg 8) frameAndByte [[0x01]] [0x02] ∧
    frameAndByte.fsm = .capturingBody ∧ frameAndByte.discard = false :=
  ⟨test_consistent_frameAndByte, test_framed_frameAndByte, rfl, rfl⟩

theorem test_witness_StepKeepsCellsCanonical :
    let s := { live with inputs := [.event 0x005#10] }
    Memory.wf s.ring ∧ ∃ t, step s = .next t := ⟨by decide, _, rfl⟩

theorem test_witness_DrainEmitsEveryCompleteFrame :
    Consistent Config.machine oneFrame ∧ Framed Config.machine oneFrame [[0x01]] [] ∧
    drainEnabled oneFrame = true :=
  ⟨test_consistent_oneFrame _ Config.machine_wf, test_framed_oneFrame _, rfl⟩

theorem test_witness_DrainOfAnEmptyRing :
    let s := { live with ready := true }
    drainEnabled s = true ∧ bytesAvailable Config.machine s = 0 := by decide

theorem test_short_head_read :
    Memory.read oneByteIn.ring (unreadIndex Config.machine oneByteIn 0) = some 0x02 := by
  simp [oneByteIn, live, State.reset, unreadIndex, Memory.read]

/-- The head frame's first byte alone, in progress and, with `fsm` at AL, not. -/
theorem test_witness_DrainWaitsForAShortHeadFrame :
    (let s := { oneByteIn with ready := true }
     drainEnabled s = true ∧ 0 < bytesAvailable Config.machine s ∧
     Memory.read s.ring (unreadIndex Config.machine s 0) = some 0x02 ∧
     bytesAvailable Config.machine s < max (0x02 : Byte).toNat 1) ∧
    (let s := { oneByteIn with ready := true, fsm := .awaitingLength }
     drainEnabled s = true ∧ 0 < bytesAvailable Config.machine s ∧
     Memory.read s.ring (unreadIndex Config.machine s 0) = some 0x02 ∧
     bytesAvailable Config.machine s < max (0x02 : Byte).toNat 1) ∧
    (Consistent Config.machine live ∧ exec .drain live = .next live) :=
  ⟨⟨rfl, by decide, test_short_head_read, by decide⟩, ⟨rfl, by decide, test_short_head_read, by decide⟩,
    test_consistent_live, rfl⟩

theorem test_witness_DrainFrame :
    (∃ t, exec .drain { live with ready := true } = .next t) ∧
    drainEnabled { live with ready := true } = true ∧
    exec .drain live = .next live ∧ drainEnabled live = false := ⟨⟨_, rfl⟩, rfl, rfl, rfl⟩

/-- Two frames, so that two records can be emitted one after the other. -/
theorem test_witness_EmitOne_TimestampsDoNotDecrease :
    let s := { at' 3 0 with ring := [(0, 0x01), (1, 0x02), (2, 0x77)] }
    s.startEpoch ≤ s.lastNow ∧
    ∃ r1 r2 t u, emitOne (cfg 16) s = .ok (r1, t) ∧ emitOne (cfg 16) t = .ok (r2, u) :=
  ⟨by decide, _, _, _, _, rfl, rfl⟩

theorem test_witness_IncludedLengthFormula :
    1 + (cfg 16).checksumWidth ≤ (3 : Byte).toNat ∧ (2 : Byte).toNat < 1 + (cfg 16).checksumWidth := by
  decide

theorem test_witness_RecordFieldRanges :
    (cfg 2).wf ∧ ({ cfg 2 with checksumWidth := 254 } : Config).wf := by decide

theorem test_witness_TimestampFields : (5 : Micros) ≤ 5 ∧ (5 : Micros) ≤ 4294967296000010 := by decide

theorem test_witness_ClockSampleIsFreeAboveTheLast : (7 : Micros) ≤ 7 ∧ (0 : Micros) ≤ 7 := by decide

theorem test_witness_SinkAcceptsAnyFrontPart :
    ([1, 2] : List Byte) ≠ [] ∧ 0 ≤ ([1, 2] : List Byte).length ∧ 2 ≤ ([1, 2] : List Byte).length := by
  decide

theorem test_witness_HeaderStepStartsTheSession :
    let s := { State.reset with inputs := [.header] }
    headerEnabled s = true ∧ s.inputs = .header :: [] := ⟨rfl, rfl⟩

theorem test_witness_SrcerrTerminates : live.term = false ∧ State.reset.term = false := ⟨rfl, rfl⟩

theorem test_witness_StatusOutputsLoseNothing :
    ((cfg 2).wf ∧ (at' 1 0).wr < (cfg 2).capacity ∧ (at' 1 0).rd < (cfg 2).capacity) ∧
    ((cfg 256).wf ∧ (at' 255 0).wr < (cfg 256).capacity ∧ (at' 255 0).rd < (cfg 256).capacity) := by
  decide

/-- A live state with an input, for the statements about a step from a consistent state. -/
def fed : State := { live with inputs := [.event 0x005#10] }

theorem test_consistent_fed : Consistent Config.machine fed :=
  test_consistent_empty _ _ (by simp [Config.machine]) rfl rfl rfl rfl rfl rfl (by decide) (by decide)

theorem test_witness_StepKeepsConsistent :
    Consistent Config.machine fed ∧ ∃ t, step fed = .next t := ⟨test_consistent_fed, _, rfl⟩

theorem test_witness_StepKeepsOutputShaped :
    OutputShaped Config.machine { fed with out := globalHeader } ∧
    ∃ t, step { fed with out := globalHeader } = .next t :=
  ⟨⟨by decide, [], by simp⟩, _, rfl⟩

theorem test_witness_ConsistentStepNeverFaults :
    Consistent Config.machine fed ∧
    (let s := { live with inputs := [.event 0x3FF#10] }
     Consistent Config.machine s ∧ step s = .refused (.reservedEvent .kind3)) :=
  ⟨test_consistent_fed, test_consistent_empty _ _ (by simp [Config.machine]) rfl rfl rfl rfl rfl rfl
    (by decide) (by decide), rfl⟩

theorem test_witness_StickyFlagsStay :
    let s := { fed with ovr := true, fi := true }
    s.ovr = true ∧ s.fi = true ∧ ∃ t, step s = .next t := ⟨rfl, rfl, _, rfl⟩

/-- ING moves the FSM and the write cursor. -/
theorem test_witness_OnlyIngMovesTheFsm_write :
    ∃ t, step fed = .next t ∧ t.fsm ≠ fed.fsm := ⟨_, rfl, by decide⟩

/-- DRAIN of [01] moves the read cursor, since N is at least 2. -/
theorem test_witness_OnlyIngMovesTheFsm_read :
    ∃ t, step oneFrame = .next t ∧ t.rd ≠ oneFrame.rd := by
  refine ⟨_, rfl, ?_⟩
  rw [sinkWrite_rd]
  change (0 + 1) % (Config.capacityExcess + 2) ≠ 0
  rw [Nat.mod_eq_of_lt (by omega)]
  decide

theorem test_witness_HeaderIsWrittenOnce_OutputOnlyGrows :
    fed.hdrDone = true ∧ ∃ t, step fed = .next t := ⟨rfl, _, rfl⟩

theorem test_witness_TerminationHasItsCause :
    let s := { live with inputs := [.event 0x200#10] }
    s.term = false ∧ ∃ t, step s = .next t ∧ t.term = true := ⟨rfl, _, rfl, rfl⟩

theorem test_witness_EveryStoredFrameIsEmittedOnce :
    (cfg 8).wf ∧ Consistent (cfg 8) live ∧ ingEnabled live = true ∧ live.fsm = .awaitingLength ∧
    bytesAvailable (cfg 8) live = 0 ∧ [[(1 : Byte)], [2, 0x77]] ≠ [] ∧
    (∀ f ∈ [[(1 : Byte)], [2, 0x77]], wholeFrame f = true) ∧
    [[(1 : Byte)], [2, 0x77]].flatten.length ≤ (cfg 8).capacity - 1 :=
  ⟨by decide, test_consistent_empty _ _ (by decide) rfl rfl rfl rfl rfl rfl (by decide) (by decide),
    by decide⟩

/-- [01] is ready, and [02 77] follows: DRAIN first, or last. -/
theorem test_witness_OutputIsScheduleIndependent :
    (cfg 8).wf ∧ Consistent (cfg 8) oneFrame ∧ drainEnabled oneFrame = true ∧ oneFrame.ovr = false ∧
    (feed (cfg 8) [2, 0x77] oneFrame).ovr = false ∧
    ∃ u t w, drainWith (cfg 8) (feed (cfg 8) [2, 0x77] oneFrame) = .next u ∧ u.term = false ∧
      drainWith (cfg 8) oneFrame = .next t ∧ t.term = false ∧
      (if (feed (cfg 8) [2, 0x77] t).ready then drainWith (cfg 8) (feed (cfg 8) [2, 0x77] t) = .next w
        else w = feed (cfg 8) [2, 0x77] t) ∧ w.term = false :=
  ⟨by decide, test_consistent_oneFrame _ (by decide), rfl, rfl, by decide,
    _, _, _, rfl, rfl, rfl, rfl, rfl, rfl⟩

theorem test_arrive_quiet (n : Nat) (s : State) : arrive quiet n s = s := by
  simp [arrive, Environment.arrivals, Environment.newBytes, quiet, ByteSource.take]

/-- The run that goes from `s` to `t` and stays there. -/
def settles (s t : State) : Nat → State
  | 0 => s
  | _ + 1 => t

theorem test_isRun_settles {s t : State} (hs : step s = .next t) (ht : step t = .next t) :
    IsRun quiet (settles s t) := by
  intro n
  rw [test_arrive_quiet]
  cases n with
  | zero => exact hs
  | succ n => exact ht

/-- FRCE idle for ever at the end of input. -/
theorem test_witness_RunEndsTerminatedOrIdle_run :
    IsRun quiet (settles live live) ∧ ended quiet 0 live ∧ .reset ∉ live.inputs ∧
    ¬ presentsReserved live.inputs ∧ ∀ m, 0 ≤ m → .reset ∉ quiet.offers m := by
  refine ⟨test_isRun_settles rfl rfl, .inr ⟨⟨rfl, rfl, rfl, ?_, ?_⟩, ?_⟩, by decide, ?_, ?_⟩
  · simp [presents, live, State.reset]
  · simp [presents, live, State.reset]
  · intro m _
    simp [Environment.newBytes, quiet, ByteSource.take]
  · simp [presentsReserved, live, State.reset]
  · simp [quiet]

/-- FRCE terminated while its source goes on for ever: the bytes that arrive wait. -/
def unread (n : Nat) : State :=
  { live with term := true, inputs := (List.range n).flatMap endless.arrivals }

theorem test_witness_RunConsumesTheSourceInOrder :
    IsRun endless unread ∧ IsRun quiet (settles live live) := by
  refine ⟨fun n => ?_, test_isRun_settles rfl rfl⟩
  have hnext : arrive endless n (unread n) = unread (n + 1) := by
    simp [arrive, unread, List.range_succ]
  have hword : ∀ b : Byte, decode (encode (.ing b)) = .ok (.ing b) := by decide
  have hwait : ∀ x ∈ (unread (n + 1)).inputs, selectable (unread (n + 1)) x = false := by
    intro x hx
    obtain ⟨k, _, hk⟩ := List.mem_flatMap.1 hx
    obtain ⟨b, _, rfl⟩ : ∃ b, b ∈ endless.newBytes k ∧ Input.event (encode (.ing b)) = x := by
      simpa [Environment.arrivals, endless] using hk
    simp [selectable, hword, enabled, ingEnabled, unread]
  have hheader : headerEnabled (unread (n + 1)) = false := rfl
  have hdrain : drainEnabled (unread (n + 1)) = false := rfl
  rw [hnext]
  simp [step, pick, selectFirst_none.2 hwait, hheader, hdrain]

theorem test_witness_EveryRunIsWeaklyFair :
    let s := { live with ready := true }
    IsRun quiet (settles s { live with drainTurns := 1 }) ∧ drainEnabled (settles s live 0) = true :=
  ⟨test_isRun_settles rfl rfl, rfl⟩

theorem test_witness_DrainMayWaitForAnyNumberOfIngs :
    drainEnabled oneFrame = true ∧
    (let s := { capturing 5 0 0 0 0 with
       discard := true, ready := true, inputs := [.event 0x005#10] }
     ∃ t, step s = .next t ∧ drainEnabled s = true ∧ drainEnabled t = true) ∧
    (let s := { live with inputs := [.event 0x000#10] }
     ∃ t, step s = .next t ∧ s.hdrDone = true ∧ drainEnabled s = false ∧ drainEnabled t = true) ∧
    (let s := { oneFrame with inputs := [.reset] }
     ∃ t, step s = .next t ∧ drainEnabled s = true ∧ drainEnabled t = false) ∧
    (let s := { live with term := true }
     (∃ t, step s = .next t) ∧ s.term = true) :=
  ⟨rfl, ⟨_, rfl, rfl, rfl⟩, ⟨_, rfl, rfl, rfl, rfl⟩, ⟨_, rfl, rfl, rfl⟩, ⟨_, rfl⟩, rfl⟩

end Sys2Proof.Tests
end

section
/-! SUPPORT. What each step does to the inputs that wait (20_memory.md R72; log 4). -/

namespace Sys2Proof.Machine

@[simp] theorem ingLength_inputs (c : Config) (b : Byte) (s : State) :
    (ingLength c b s).inputs = s.inputs := by
  rcases ingLength_cases c b s with ⟨-, h⟩ | ⟨-, t, hpush, -, -, h⟩
  · rw [h]; split <;> simp
  · have ht : t.inputs = s.inputs := by simpa [hpush] using push_inputs c b (startFrame b s)
    rw [h]; split <;> simp [ht]

@[simp] theorem ingBody_inputs (c : Config) (b : Byte) (s : State) :
    (ingBody c b s).inputs = s.inputs := by
  rcases ingBody_cases c b s with ⟨-, h⟩ | ⟨-, t, hpush, -, -, h⟩
  · rw [h]; split <;> simp
  · have ht : t.inputs = s.inputs := by simpa [hpush] using push_inputs c b s
    rw [h]; split <;> simp [ht]

@[simp] theorem ingDiscard_inputs (b : Byte) (s : State) : (ingDiscard b s).inputs = s.inputs := by
  unfold ingDiscard
  dsimp only
  split <;> simp

@[simp] theorem ingNext_inputs (c : Config) (b : Byte) (s : State) :
    (ingNext c b s).inputs = s.inputs := by
  rcases ingNext_cases c b s with ⟨-, h⟩ | ⟨-, -, h⟩ | ⟨-, -, -, h⟩ | ⟨-, -, -, h⟩ <;> simp [h]

theorem emitOne_inputs {c : Config} {s t : State} {r : List Byte} (h : emitOne c s = .ok (r, t)) :
    t.inputs = s.inputs := by
  obtain ⟨l, payload, -, -, -, -, rfl⟩ := emitOne_ok.1 h
  rfl

theorem drainLoop_inputs {c : Config} {fuel : Nat} {bs bs' : List Byte} {s t : State}
    (h : drainLoop c fuel bs s = .ok (bs', t)) : t.inputs = s.inputs :=
  drainLoop_keeps (P := fun _ u => u.inputs = s.inputs)
    (fun hu he => (emitOne_inputs he).trans hu) (fun hu => hu) rfl h

theorem drainWith_inputs {c : Config} {s t : State} (h : drainWith c s = .next t) :
    t.inputs = s.inputs := by
  rcases drainWith_cases c s with ⟨-, hd⟩ | ⟨-, f, -, hd⟩ | ⟨-, bs, u, hloop, hd⟩
  · rw [hd] at h; cases h; rfl
  · rw [hd] at h; cases h
  · rw [hd] at h; cases h; simpa using drainLoop_inputs hloop

/-- The meaning of an event does not touch the inputs: taking the event's word away is the scheduler's part. -/
theorem exec_inputs {i : Instr} {s t : State} (h : exec i s = .next t) : t.inputs = s.inputs := by
  cases i with
  | ing b => rw [ingNext_eq_exec] at h; cases h; simp
  | drain => exact drainWith_inputs h
  | srcerr =>
    cases h
    split <;> simp

@[simp] theorem headerNext_inputs (c : Config) (s : State) : (headerNext c s).inputs = s.inputs := by
  rcases headerNext_cases c s with ⟨-, h⟩ | ⟨-, h⟩ <;> simp [h]

/-- A step leaves the inputs as they are, or takes the first selectable one out of them. -/
theorem step_inputs {s t : State} (h : step s = .next t) :
    t.inputs = s.inputs ∨ ∃ pre x post, s.inputs = pre ++ x :: post ∧ selectable s x = true ∧
      (∀ y ∈ pre, selectable s y = false) ∧ t.inputs = pre ++ post := by
  rcases pick_cases Config.machine s with ⟨w, i, pre, post, hin, hw, hi, hpre, -, hp⟩ | ⟨-, -, hp⟩ |
    ⟨-, -, hp⟩ | ⟨pre, post, hin, hh, hpre, hp⟩ | ⟨pre, post, hin, hpre, hp⟩ |
    ⟨w, r, pre, post, -, -, -, hp⟩ | ⟨-, -, -, hp⟩ <;> simp only [step, hp] at h
  · -- an event that is presented
    exact .inr ⟨pre, .event w, post, hin, by simpa [selectable, hw] using hi, hpre,
      by simpa using exec_inputs h⟩
  · -- the emitter's own DRAIN
    exact .inl (by simpa using exec_inputs h)
  · -- HDR by itself
    cases h; exact .inl (by simp)
  · -- HDR picked by the scheduler
    cases h; exact .inr ⟨pre, .header, post, hin, hh, hpre, by simp⟩
  · -- RESET
    cases h; exact .inr ⟨pre, .reset, post, hin, rfl, hpre, by simp⟩
  · -- a reserved word, which is refused
    cases h
  · -- no step
    cases h; exact .inl rfl

/-- An input at the front that is not selectable stays at the front. -/
theorem step_keeps_waiting_front {x : Input} {rest : List Input} {s t : State}
    (hin : s.inputs = x :: rest) (hx : selectable s x = false) (h : step s = .next t) :
    ∃ rest', t.inputs = x :: rest' := by
  rcases step_inputs h with ht | ⟨pre, y, post, hs, hy, -, ht⟩
  · exact ⟨rest, ht.trans hin⟩
  · rw [hin] at hs
    cases pre with
    | nil =>
      obtain ⟨rfl, -⟩ := List.cons.inj hs
      rw [hx] at hy
      cases hy
    | cons z pre =>
      obtain ⟨rfl, -⟩ := List.cons.inj hs
      exact ⟨pre ++ post, ht⟩

/-- The choice where the front input is an enabled event: that event, or a DRAIN that is due before an ING
(60_exceptions.md R237, log 19). -/
theorem pick_of_enabled_front {c : Config} {w : EventWord} {i : Instr} {rest : List Input} {s : State}
    (hin : s.inputs = .event w :: rest) (hw : decode w = .ok i) (hi : enabled i s = true) :
    pick c s = if givesWay i && drainDue c s then .run .drain (countTurn .drain s)
      else .run i (countTurn i { s with inputs := rest }) := by
  have hsel : selectable s (.event w) = true := by simpa [selectable, hw] using hi
  have hfront : frontWaits s = false := by simp [frontWaits, hin, hsel]
  have hfirst : selectFirst s s.inputs = some (.event w, rest) := by simp [hin, selectFirst, hsel]
  simp [pick, hfront, hfirst, hw]

/-- The scheduler's count of an event is kept in two fields of its own (log 19). -/
theorem countTurn_eq (i : Instr) (s : State) : countTurn i s =
    { s with drainWait := (countTurn i s).drainWait, drainTurns := (countTurn i s).drainTurns } := by
  cases i <;> rfl

end Sys2Proof.Machine
end

section
/-! SUPPORT. The statements of 00_scope.md's family, settled. -/

namespace Sys2Proof.Proofs

open Sys2Proof.Machine

/-- Settles O11: an event that is not enabled is not selectable, and a step takes only a selectable input. -/
theorem eventNotEnabledStaysAtTheFront : Obligations.EventNotEnabledStaysAtTheFront := by
  refine ⟨fun _ _ => exec_of_not_enabled, fun w i rest s t hin hw hi h => ?_⟩
  have hwaits : selectable s (.event w) = false := by simpa [selectable, hw] using hi
  exact step_keeps_waiting_front hin hwaits h

/-- Settles O9, by the choice `pick` makes for an enabled event at the front. -/
theorem stepRunsTheDecodedEvent : Obligations.StepRunsTheDecodedEvent := by
  intro w i rest s hin hw hi
  have hpick := pick_of_enabled_front (c := Config.machine) hin hw hi
  refine ⟨fun hgo => ?_, fun hgives hdue => ?_, countTurn_eq⟩
  · have hno : (givesWay i && drainDue Config.machine s) = false := Bool.and_eq_false_iff.2 hgo
    simp [step, hpick, hno]
  · simp [step, hpick, hgives, hdue]

end Sys2Proof.Proofs
end

section
/-! SUPPORT. Each outcome of ING as one update of the state, and what ING leaves unchanged
(41_reassembly_fsm.md R110 to R113, 10_state.md R40). -/

namespace Sys2Proof.Machine

theorem ingLength_of_full {c : Config} {s : State} (b : Byte) (h : bytesAvailable c s = c.capacity - 1) :
    ingLength c b s = { s with
      len := b, cnt := 0, fs := s.wr, ovr := true, fi := true
      fsm := if isDegenerate b then .awaitingLength else .capturingBody
      discard := !isDegenerate b } := by
  unfold ingLength
  rw [push_of_full b (s := startFrame b s) h]
  cases isDegenerate b <;> simp [raiseOverrun, startFrame, finishDegenerate, startBody]

theorem ingLength_of_room {c : Config} {s : State} (b : Byte) (h : bytesAvailable c s ≠ c.capacity - 1) :
    ingLength c b s = { s with
      len := b, cnt := 0, fs := s.wr
      ring := Memory.write s.ring s.wr b
      wr := (s.wr + 1) % c.capacity
      fsm := if isDegenerate b then .awaitingLength else .capturingBody
      discard := false
      ready := s.ready || isDegenerate b } := by
  unfold ingLength
  rw [push_of_room b (s := startFrame b s) h]
  cases isDegenerate b <;> simp [startFrame, finishDegenerate, startBody]

theorem ingBody_of_full {c : Config} {s : State} (b : Byte) (h : bytesAvailable c s = c.capacity - 1) :
    ingBody c b s = { s with
      wr := s.fs, ovr := true, fi := true
      cnt := s.cnt + 1
      fsm := if bodyComplete (countBodyByte s) then .awaitingLength else s.fsm
      discard := !bodyComplete (countBodyByte s) } := by
  unfold ingBody
  rw [push_of_full b h]
  show (if bodyComplete (countBodyByte s) then finishFrame (countBodyByte (dropFrame s))
    else countBodyByte (dropFrame s)) = _
  cases bodyComplete (countBodyByte s) <;>
    simp [countBodyByte, dropFrame, raiseOverrun, rollback, finishFrame]

theorem ingBody_of_room {c : Config} {s : State} (b : Byte) (h : bytesAvailable c s ≠ c.capacity - 1)
    (hd : s.discard = false) :
    ingBody c b s = { s with
      ring := Memory.write s.ring s.wr b
      wr := (s.wr + 1) % c.capacity
      cnt := s.cnt + 1
      fsm := if bodyComplete (countBodyByte s) then .awaitingLength else s.fsm
      ready := s.ready || bodyComplete (countBodyByte s) } := by
  unfold ingBody
  rw [push_of_room b h]
  show (if bodyComplete (countBodyByte s) then finishFrame (countBodyByte _) else countBodyByte _) = _
  cases bodyComplete (countBodyByte s) <;> simp [countBodyByte, finishFrame, hd]

theorem ingDiscard_eq (b : Byte) {s : State} (hd : s.discard = true) :
    ingDiscard b s = { s with
      cnt := s.cnt + 1
      fsm := if bodyComplete (countBodyByte s) then .awaitingLength else s.fsm
      discard := !bodyComplete (countBodyByte s) } := by
  unfold ingDiscard
  dsimp only
  cases bodyComplete (countBodyByte s) <;> simp [countBodyByte, finishDropped, hd]

/-- Everything ING can do, as updates of the state: nothing, a length byte without and with room, a body
byte without and with room, a discarded byte. -/
theorem ingNext_outcomes (c : Config) (b : Byte) (s : State) :
    (ingEnabled s = false ∧ ingNext c b s = s) ∨
    (ingEnabled s = true ∧ s.fsm = .awaitingLength ∧ bytesAvailable c s = c.capacity - 1 ∧
      ingNext c b s = { s with
        len := b, cnt := 0, fs := s.wr, ovr := true, fi := true
        fsm := if isDegenerate b then .awaitingLength else .capturingBody
        discard := !isDegenerate b }) ∨
    (ingEnabled s = true ∧ s.fsm = .awaitingLength ∧ bytesAvailable c s ≠ c.capacity - 1 ∧
      ingNext c b s = { s with
        len := b, cnt := 0, fs := s.wr
        ring := Memory.write s.ring s.wr b
        wr := (s.wr + 1) % c.capacity
        fsm := if isDegenerate b then .awaitingLength else .capturingBody
        discard := false
        ready := s.ready || isDegenerate b }) ∨
    (ingEnabled s = true ∧ s.fsm = .capturingBody ∧ s.discard = false ∧
      bytesAvailable c s = c.capacity - 1 ∧
      ingNext c b s = { s with
        wr := s.fs, ovr := true, fi := true
        cnt := s.cnt + 1
        fsm := if bodyComplete (countBodyByte s) then .awaitingLength else s.fsm
        discard := !bodyComplete (countBodyByte s) }) ∨
    (ingEnabled s = true ∧ s.fsm = .capturingBody ∧ s.discard = false ∧
      bytesAvailable c s ≠ c.capacity - 1 ∧
      ingNext c b s = { s with
        ring := Memory.write s.ring s.wr b
        wr := (s.wr + 1) % c.capacity
        cnt := s.cnt + 1
        fsm := if bodyComplete (countBodyByte s) then .awaitingLength else s.fsm
        ready := s.ready || bodyComplete (countBodyByte s) }) ∨
    (ingEnabled s = true ∧ s.fsm = .capturingBody ∧ s.discard = true ∧
      ingNext c b s = { s with
        cnt := s.cnt + 1
        fsm := if bodyComplete (countBodyByte s) then .awaitingLength else s.fsm
        discard := !bodyComplete (countBodyByte s) }) := by
  rcases ingNext_cases c b s with h | ⟨he, hf, h⟩ | ⟨he, hf, hd, h⟩ | ⟨he, hf, hd, h⟩
  · exact .inl h
  · by_cases ha : bytesAvailable c s = c.capacity - 1
    · exact .inr (.inl ⟨he, hf, ha, h.trans (ingLength_of_full b ha)⟩)
    · exact .inr (.inr (.inl ⟨he, hf, ha, h.trans (ingLength_of_room b ha)⟩))
  · by_cases ha : bytesAvailable c s = c.capacity - 1
    · exact .inr (.inr (.inr (.inl ⟨he, hf, hd, ha, h.trans (ingBody_of_full b ha)⟩)))
    · exact .inr (.inr (.inr (.inr (.inl ⟨he, hf, hd, ha, h.trans (ingBody_of_room b ha hd)⟩))))
  · exact .inr (.inr (.inr (.inr (.inr ⟨he, hf, hd, h.trans (ingDiscard_eq b hd)⟩))))

/-- ING writes the FSM's registers, `wr`, the ring and three flags, and nothing else (10_state.md R40). -/
theorem ingNext_frame (c : Config) (b : Byte) (s : State) :
    ingNext c b s = { s with
      fsm := (ingNext c b s).fsm
      len := (ingNext c b s).len
      cnt := (ingNext c b s).cnt
      wr := (ingNext c b s).wr
      ring := (ingNext c b s).ring
      fs := (ingNext c b s).fs
      discard := (ingNext c b s).discard
      ready := (ingNext c b s).ready
      ovr := (ingNext c b s).ovr
      fi := (ingNext c b s).fi } := by
  rcases ingNext_outcomes c b s with ⟨-, h⟩ | ⟨-, -, -, h⟩ | ⟨-, -, -, h⟩ | ⟨-, -, -, -, h⟩ |
    ⟨-, -, -, -, h⟩ | ⟨-, -, -, h⟩ <;> rw [h]

@[simp] theorem ingNext_rd (c : Config) (b : Byte) (s : State) :
    (ingNext c b s).rd = s.rd := by rw [ingNext_frame]
@[simp] theorem ingNext_hdrDone (c : Config) (b : Byte) (s : State) :
    (ingNext c b s).hdrDone = s.hdrDone := by rw [ingNext_frame]
@[simp] theorem ingNext_startEpoch (c : Config) (b : Byte) (s : State) :
    (ingNext c b s).startEpoch = s.startEpoch := by rw [ingNext_frame]
@[simp] theorem ingNext_lastNow (c : Config) (b : Byte) (s : State) :
    (ingNext c b s).lastNow = s.lastNow := by rw [ingNext_frame]
@[simp] theorem ingNext_term (c : Config) (b : Byte) (s : State) :
    (ingNext c b s).term = s.term := by rw [ingNext_frame]
@[simp] theorem ingNext_cause (c : Config) (b : Byte) (s : State) :
    (ingNext c b s).cause = s.cause := by rw [ingNext_frame]
@[simp] theorem ingNext_out (c : Config) (b : Byte) (s : State) :
    (ingNext c b s).out = s.out := by rw [ingNext_frame]
@[simp] theorem ingNext_clockDraws (c : Config) (b : Byte) (s : State) :
    (ingNext c b s).clockDraws = s.clockDraws := by rw [ingNext_frame]
@[simp] theorem ingNext_sinkDraws (c : Config) (b : Byte) (s : State) :
    (ingNext c b s).sinkDraws = s.sinkDraws := by rw [ingNext_frame]
@[simp] theorem ingNext_drainWait (c : Config) (b : Byte) (s : State) :
    (ingNext c b s).drainWait = s.drainWait := by rw [ingNext_frame]
@[simp] theorem ingNext_drainTurns (c : Config) (b : Byte) (s : State) :
    (ingNext c b s).drainTurns = s.drainTurns := by rw [ingNext_frame]

/-- ING sets flags and clears none of these three (10_state.md R29, R33, R34). -/
theorem ingNext_flags (c : Config) (b : Byte) (s : State) :
    (s.ready = true → (ingNext c b s).ready = true) ∧ (s.ovr = true → (ingNext c b s).ovr = true) ∧
      (s.fi = true → (ingNext c b s).fi = true) := by
  rcases ingNext_outcomes c b s with ⟨-, h⟩ | ⟨-, -, -, h⟩ | ⟨-, -, -, h⟩ | ⟨-, -, -, -, h⟩ |
    ⟨-, -, -, -, h⟩ | ⟨-, -, -, h⟩ <;> rw [h] <;> simp +contextual

/-- ING writes no cell, or it is enabled, stores at `wr`, has room and does not discard. -/
theorem ingNext_ring_cases (c : Config) (b : Byte) (s : State) :
    (ingNext c b s).ring = s.ring ∨
    (ingEnabled s = true ∧ bytesAvailable c s ≠ c.capacity - 1 ∧
      ¬ (s.fsm = .capturingBody ∧ s.discard = true) ∧
      (ingNext c b s).ring = Memory.write s.ring s.wr b) := by
  rcases ingNext_outcomes c b s with ⟨-, h⟩ | ⟨-, -, -, h⟩ | ⟨he, hf, ha, h⟩ | ⟨-, -, -, -, h⟩ |
    ⟨he, -, hd, ha, h⟩ | ⟨-, -, -, h⟩ <;> rw [h]
  · exact .inl rfl
  · exact .inl rfl
  · exact .inr ⟨he, ha, by simp [hf], rfl⟩
  · exact .inl rfl
  · exact .inr ⟨he, ha, by simp [hd], rfl⟩
  · exact .inl rfl

end Sys2Proof.Machine
end

section
/-! SUPPORT. What DRAIN and HDR leave unchanged (43_frame_emitter.md R160, R180), and all that one step can
be (60_exceptions.md R228). -/

namespace Sys2Proof.Machine

theorem clockSample_ge (c : Config) (floor : Micros) (n : Nat) : floor ≤ clockSample c floor n := by
  unfold clockSample
  split
  · assumption
  · exact BitVec.le_refl floor

/-- SinkWrite appends to the output (60_exceptions.md R223). -/
theorem sinkWrite_out_append (c : Config) (bs : List Byte) (s : State) :
    ∃ bs', (sinkWrite c bs s).out = s.out ++ bs' := by
  rcases sinkWrite_cases c bs s with ⟨-, h⟩ | ⟨-, -, h⟩ | ⟨-, -, h⟩ <;> rw [h]
  · exact ⟨[], (List.append_nil _).symm⟩
  · exact ⟨bs, rfl⟩
  · exact ⟨_, rfl⟩

/-! HDR leaves the FSM, the ring and the sticky flags as they are (43_frame_emitter.md R180). -/

@[simp] theorem headerNext_fsm (c : Config) (s : State) : (headerNext c s).fsm = s.fsm := by
  rcases headerNext_cases c s with ⟨-, h⟩ | ⟨-, h⟩ <;> simp [h]
@[simp] theorem headerNext_wr (c : Config) (s : State) : (headerNext c s).wr = s.wr := by
  rcases headerNext_cases c s with ⟨-, h⟩ | ⟨-, h⟩ <;> simp [h]
@[simp] theorem headerNext_rd (c : Config) (s : State) : (headerNext c s).rd = s.rd := by
  rcases headerNext_cases c s with ⟨-, h⟩ | ⟨-, h⟩ <;> simp [h]
@[simp] theorem headerNext_ring (c : Config) (s : State) : (headerNext c s).ring = s.ring := by
  rcases headerNext_cases c s with ⟨-, h⟩ | ⟨-, h⟩ <;> simp [h]
@[simp] theorem headerNext_ovr (c : Config) (s : State) : (headerNext c s).ovr = s.ovr := by
  rcases headerNext_cases c s with ⟨-, h⟩ | ⟨-, h⟩ <;> simp [h]
@[simp] theorem headerNext_fi (c : Config) (s : State) : (headerNext c s).fi = s.fi := by
  rcases headerNext_cases c s with ⟨-, h⟩ | ⟨-, h⟩ <;> simp [h]

theorem headerNext_out_append (c : Config) (s : State) :
    ∃ bs, (headerNext c s).out = s.out ++ bs := by
  rcases headerNext_cases c s with ⟨-, h⟩ | ⟨-, h⟩ <;> rw [h]
  · exact ⟨[], (List.append_nil _).symm⟩
  · exact sinkWrite_out_append ..

/-- `u` lies on the way of a DRAIN's loop that starts from `s`: `rd` and the clock may have moved, `fi`
may be set, and nothing else has changed. -/
def LoopReaches (s u : State) : Prop :=
  ∃ rd now draws fi, u = { s with rd := rd, lastNow := now, clockDraws := draws, fi := fi } ∧
    s.lastNow ≤ now ∧ (s.fi = true → fi = true)

theorem LoopReaches.emitOne {c : Config} {s u t : State} {r : List Byte} (h : LoopReaches s u)
    (he : emitOne c u = .ok (r, t)) : LoopReaches s t := by
  obtain ⟨rd, now, draws, fi, rfl, hnow, hfi⟩ := h
  obtain ⟨l, payload, -, -, -, -, rfl⟩ := emitOne_ok.1 he
  exact ⟨_, _, _, _, rfl, BitVec.le_trans hnow (clockSample_ge ..), hfi⟩

theorem LoopReaches.raiseInconsistency {s u : State} (h : LoopReaches s u) :
    LoopReaches s (raiseInconsistency u) := by
  obtain ⟨rd, now, draws, fi, rfl, hnow, -⟩ := h
  exact ⟨_, _, _, _, rfl, hnow, fun _ => rfl⟩

theorem drainLoop_reaches {c : Config} {fuel : Nat} {bs bs' : List Byte} {s t : State}
    (h : drainLoop c fuel bs s = .ok (bs', t)) : LoopReaches s t :=
  drainLoop_keeps (P := fun _ u => LoopReaches s u) LoopReaches.emitOne LoopReaches.raiseInconsistency
    ⟨_, _, _, _, rfl, BitVec.le_refl _, id⟩ h

/-- A DRAIN that answers a next state changes nothing, or it is enabled, its loop moves `rd`, the clock and
`fi`, and it clears `ready` and writes to the sink (43_frame_emitter.md R160). -/
theorem drainWith_next {c : Config} {s t : State} (h : drainWith c s = .next t) :
    (drainEnabled s = false ∧ t = s) ∨
    (drainEnabled s = true ∧ ∃ bs rd now draws fi, s.lastNow ≤ now ∧ (s.fi = true → fi = true) ∧
      t = sinkWrite c bs
        { s with rd := rd, lastNow := now, clockDraws := draws, fi := fi, ready := false }) := by
  rcases drainWith_cases c s with ⟨he, hd⟩ | ⟨-, f, -, hd⟩ | ⟨he, bs, u, hloop, hd⟩ <;>
    rw [hd] at h <;> cases h
  · exact .inl ⟨he, rfl⟩
  · obtain ⟨rd, now, draws, fi, rfl, hnow, hfi⟩ := drainLoop_reaches hloop
    exact .inr ⟨he, bs, rd, now, draws, fi, hnow, hfi, rfl⟩

/-- Everything a step that answers a next state can be: an enabled ING, DRAIN or SRCERR with its word
consumed or the emitter's own DRAIN, an enabled HDR, RESET, or no step. -/
theorem step_next_cases {s t : State} (h : step s = .next t) :
    (∃ b rest, ingEnabled s = true ∧
      t = ingNext Config.machine b (countTurn (.ing b) { s with inputs := rest })) ∨
    (∃ rest, drainEnabled s = true ∧
      drainWith Config.machine (countTurn .drain { s with inputs := rest }) = .next t) ∨
    (∃ rest, s.term = false ∧ t = terminate .sourceUnavailable { s with inputs := rest }) ∨
    (∃ rest, headerEnabled s = true ∧ t = headerNext Config.machine { s with inputs := rest }) ∨
    (∃ rest, t = resetNext { s with inputs := rest }) ∨
    t = s := by
  rcases pick_cases Config.machine s with ⟨w, i, pre, post, -, -, hi, -, -, hp⟩ | ⟨hd, -, hp⟩ |
    ⟨hh, -, hp⟩ | ⟨pre, post, -, hh, -, hp⟩ | ⟨pre, post, -, -, hp⟩ |
    ⟨w, r, pre, post, -, -, -, hp⟩ | ⟨-, -, -, hp⟩ <;> simp only [step, hp] at h
  · -- an event that is presented
    cases i with
    | ing b => cases h; exact .inl ⟨b, pre ++ post, hi, rfl⟩
    | drain => exact .inr (.inl ⟨pre ++ post, hi, h⟩)
    | srcerr =>
      have ht : s.term = false := by simpa [enabled, srcerrEnabled] using hi
      refine .inr (.inr (.inl ⟨pre ++ post, ht, ?_⟩))
      cases h
      simp [srcerrEnabled, ht]
  · -- the emitter's own DRAIN
    exact .inr (.inl ⟨s.inputs, hd, h⟩)
  · -- HDR by itself
    cases h; exact .inr (.inr (.inr (.inl ⟨s.inputs, hh, rfl⟩)))
  · -- HDR picked by the scheduler
    cases h; exact .inr (.inr (.inr (.inl ⟨pre ++ post, hh, rfl⟩)))
  · -- RESET
    cases h; exact .inr (.inr (.inr (.inr (.inl ⟨pre ++ post, rfl⟩))))
  · -- a reserved word, which is refused
    cases h
  · -- no step
    cases h; exact .inr (.inr (.inr (.inr (.inr rfl))))

end Sys2Proof.Machine
end

section
/-! SUPPORT. The statements of 10_state.md's family about frames and flags, settled. -/

namespace Sys2Proof.Proofs

open Sys2Proof.Machine

/-- Settles O21, from ING's frame, its flags and the one cell it may write. -/
theorem ingFrame : Obligations.IngFrame := by
  intro b s t h
  cases h
  obtain ⟨hready, hovr, hfi⟩ := ingNext_flags Config.machine b s
  refine ⟨ingNext_rd .., ingNext_hdrDone .., ingNext_startEpoch .., ingNext_lastNow .., ingNext_term ..,
    ingNext_cause .., ingNext_out .., ingNext_inputs .., ingNext_clockDraws .., ingNext_sinkDraws ..,
    ingNext_drainWait .., ingNext_drainTurns .., hready, hovr, hfi, fun a ha => ?_, fun hno a => ?_⟩
  · rcases ingNext_ring_cases Config.machine b s with hr | ⟨-, -, -, hr⟩ <;> rw [hr]
    exact Memory.read_write_other s.ring b ha
  · rcases ingNext_ring_cases Config.machine b s with hr | ⟨he, hroom, hkeep, -⟩
    · rw [hr]
    · rcases hno with hno | hno | hno
      · rw [he] at hno; cases hno
      · exact absurd hno hroom
      · exact absurd hno hkeep

/-- Settles O34, from what DRAIN's loop moves and what SinkWrite changes. -/
theorem drainFrame : Obligations.DrainFrame := by
  intro s t h
  rcases drainWith_next h with ⟨he, rfl⟩ | ⟨he, bs, rd, now, draws, fi, hnow, hfi, rfl⟩
  · simp [he]
  · have hout := sinkWrite_out_append Config.machine bs { s with
      rd := rd, lastNow := now, clockDraws := draws, fi := fi, ready := false }
    simpa [he, hout, hnow] using hfi

/-- Settles O51: ING and DRAIN set the flags only, and no step but RESET touches them else. -/
theorem stickyFlagsStay : Obligations.StickyFlagsStay := by
  intro s t h
  rcases step_next_cases h with ⟨b, rest, -, rfl⟩ | ⟨rest, -, hd⟩ | ⟨rest, -, rfl⟩ | ⟨rest, -, rfl⟩ |
    hreset | rfl
  · have hflags := ingNext_flags Config.machine b (countTurn (.ing b) { s with inputs := rest })
    exact .inr (by simpa using hflags.2)
  · rcases drainWith_next hd with ⟨-, rfl⟩ | ⟨-, bs, rd, now, draws, fi, -, hfi, rfl⟩
    · exact .inr (by simp)
    · exact .inr (by simpa using hfi)
  · exact .inr (by simp)
  · exact .inr (by simp)
  · exact .inl hreset
  · exact .inr ⟨id, id⟩

/-- Settles O52, from the frames of the steps. -/
theorem onlyIngMovesTheFsm : Obligations.OnlyIngMovesTheFsm := by
  intro s t h
  rcases step_next_cases h with ⟨b, rest, -, ht⟩ | ⟨rest, -, hd⟩ | ⟨rest, -, rfl⟩ | ⟨rest, -, rfl⟩ |
    ⟨rest, ht⟩ | rfl
  · refine ⟨fun _ => ⟨rest, .inr ⟨b, ht⟩⟩, fun hrd => absurd ?_ hrd⟩
    simp [ht]
  · refine ⟨fun hmoved => absurd hmoved ?_, fun _ => ⟨rest, .inr hd⟩⟩
    rcases drainWith_next hd with ⟨-, rfl⟩ | ⟨-, bs, rd, now, draws, fi, -, -, rfl⟩ <;> simp
  · simp
  · simp
  · exact ⟨fun _ => ⟨rest, .inl ht⟩, fun _ => ⟨rest, .inl ht⟩⟩
  · simp

/-- Settles O53: once `hdr_done` is set HDR is not enabled, and no other step but RESET writes the two. -/
theorem headerIsWrittenOnce : Obligations.HeaderIsWrittenOnce := by
  intro s t hdone h
  rcases step_next_cases h with ⟨b, rest, -, rfl⟩ | ⟨rest, -, hd⟩ | ⟨rest, -, rfl⟩ | ⟨rest, hh, -⟩ |
    hreset | rfl
  · exact .inr (by simp [hdone])
  · rcases drainWith_next hd with ⟨-, rfl⟩ | ⟨-, bs, rd, now, draws, fi, -, -, rfl⟩ <;>
      exact .inr (by simp [hdone])
  · exact .inr (by simp [hdone])
  · simp [headerEnabled, hdone] at hh
  · exact .inl hreset
  · exact .inr ⟨hdone, rfl⟩

/-- Settles O54: only SinkWrite writes the output, and it appends. -/
theorem outputOnlyGrows : Obligations.OutputOnlyGrows := by
  intro s t h
  rcases step_next_cases h with ⟨b, rest, -, rfl⟩ | ⟨rest, -, hd⟩ | ⟨rest, -, rfl⟩ | ⟨rest, -, rfl⟩ |
    hreset | rfl
  · exact .inr ⟨[], by simp⟩
  · rcases drainWith_next hd with ⟨-, rfl⟩ | ⟨-, bs, rd, now, draws, fi, -, -, rfl⟩
    · exact .inr ⟨[], by simp⟩
    · exact .inr (sinkWrite_out_append ..)
  · exact .inr ⟨[], by simp⟩
  · exact .inr (headerNext_out_append _ { s with inputs := rest })
  · exact .inl hreset
  · exact .inr ⟨[], by simp⟩

/-- Settles O30: of the steps that are not RESET only ING writes a cell, by the one write that keeps the
canonical form. -/
theorem stepKeepsCellsCanonical : Obligations.StepKeepsCellsCanonical := by
  intro s t hwf h
  rcases step_next_cases h with ⟨b, rest, -, rfl⟩ | ⟨rest, -, hd⟩ | ⟨rest, -, rfl⟩ | ⟨rest, -, rfl⟩ |
    ⟨rest, rfl⟩ | rfl
  · rcases ingNext_ring_cases Config.machine b (countTurn (.ing b) { s with inputs := rest }) with
      hr | ⟨-, -, -, hr⟩ <;> rw [hr]
    · exact hwf
    · exact Memory.wf_write _ _ hwf
  · rcases drainWith_next hd with ⟨-, rfl⟩ | ⟨-, bs, rd, now, draws, fi, -, -, rfl⟩ <;> simpa using hwf
  · exact hwf
  · simpa using hwf
  · exact reset_ring_wf
  · exact hwf

end Sys2Proof.Proofs
end

section
/-! SUPPORT. The unread bytes as the ring's operations move the cursors, and the frames they make up
(42_ring_buffer.md R140 to R144, 10_state.md R42 item 5). -/

namespace Sys2Proof

open Sys2Proof.Machine

theorem length_unreadCells (c : Config) (s : State) :
    (unreadCells c s).length = bytesAvailable c s := by
  simp [unreadCells]

/-- The occupancy is the one number below N that leads from `rd` to `wr`. -/
theorem bytesAvailable_of_wr_eq {c : Config} {s : State} {n : Nat} (hwr : s.wr < c.capacity)
    (hrd : s.rd < c.capacity) (hn : n < c.capacity) (h : s.wr = unreadIndex c s n) :
    bytesAvailable c s = n :=
  unreadIndex_inj hrd (bytesAvailable_lt hwr) hn ((unreadIndex_available hwr hrd).trans h)

theorem unreadCells_push {c : Config} {s : State} (b : Byte) (hwr : s.wr < c.capacity)
    (hrd : s.rd < c.capacity) (hroom : bytesAvailable c s ≠ c.capacity - 1) :
    unreadCells c { s with ring := Memory.write s.ring s.wr b, wr := (s.wr + 1) % c.capacity } =
      unreadCells c s ++ [some b] := by
  have hlt := bytesAvailable_lt (s := s) hwr
  have hlast := unreadIndex_available hwr hrd
  have hav : bytesAvailable c { s with
      ring := Memory.write s.ring s.wr b, wr := (s.wr + 1) % c.capacity } = bytesAvailable c s + 1 := by
    refine bytesAvailable_of_wr_eq (Nat.mod_lt _ (by omega)) hrd (by omega) ?_
    calc (s.wr + 1) % c.capacity
        = ((s.rd + bytesAvailable c s) % c.capacity + 1) % c.capacity := by rw [← hlast]; rfl
      _ = (s.rd + (bytesAvailable c s + 1)) % c.capacity := by rw [Nat.mod_add_mod, Nat.add_assoc]
  unfold unreadCells
  rw [hav, List.range_succ, List.map_append]
  congr 1
  · refine List.map_congr_left fun k hk => Memory.read_write_other _ _ fun heq => ?_
    have hk : k < bytesAvailable c s := List.mem_range.1 hk
    have := unreadIndex_inj hrd (Nat.lt_trans hk hlt) hlt (heq.trans hlast.symm)
    omega
  · have hcell : Memory.read (Memory.write s.ring s.wr b) (unreadIndex c s (bytesAvailable c s)) =
        some b := by
      rw [hlast]; exact Memory.read_write_same ..
    exact congrArg (fun x => [x]) hcell

/-- Moving `wr` back leaves the first unread bytes unread (42_ring_buffer.md R144). -/
theorem unreadCells_rollback {c : Config} {s : State} {n : Nat} (hfs : s.fs < c.capacity)
    (hrd : s.rd < c.capacity) (hwr : s.wr < c.capacity) (hn : n ≤ bytesAvailable c s)
    (h : s.fs = unreadIndex c s n) : unreadCells c (rollback s) = (unreadCells c s).take n := by
  have hlt := bytesAvailable_lt (s := s) hwr
  have hav : bytesAvailable c (rollback s) = n := bytesAvailable_of_wr_eq hfs hrd (by omega) h
  unfold unreadCells
  rw [hav, ← List.map_take, List.take_range, Nat.min_eq_left hn]
  rfl

/-- Advancing `rd` consumes the first unread bytes (42_ring_buffer.md R143). -/
theorem unreadCells_advance {c : Config} {s : State} {n : Nat} (hrd : s.rd < c.capacity)
    (hwr : s.wr < c.capacity) (hn : n ≤ bytesAvailable c s) :
    unreadCells c { s with rd := unreadIndex c s n } = (unreadCells c s).drop n := by
  have hlt := bytesAvailable_lt (s := s) hwr
  have hindex (k : Nat) : unreadIndex c { s with rd := unreadIndex c s n } k = unreadIndex c s (n + k) := by
    show ((s.rd + n) % c.capacity + k) % c.capacity = (s.rd + (n + k)) % c.capacity
    rw [Nat.mod_add_mod, Nat.add_assoc]
  have hav : bytesAvailable c { s with rd := unreadIndex c s n } = bytesAvailable c s - n := by
    refine bytesAvailable_of_wr_eq hwr (Nat.mod_lt _ (by omega)) (by omega) ?_
    rw [hindex, Nat.add_sub_cancel' hn]
    exact (unreadIndex_available hwr hrd).symm
  refine List.ext_getElem (by simp [length_unreadCells, hav]) fun k h1 h2 => ?_
  simp [unreadCells, hindex]

theorem peekAt_of_unreadCells {c : Config} {s : State} {bs : List Byte}
    (h : unreadCells c s = bs.map some) {k : Nat} (hk : k < bs.length) : peekAt c k s = .ok bs[k] := by
  have hav : bytesAvailable c s = bs.length := by rw [← length_unreadCells, h, List.length_map]
  refine peekAt_ok.2 ⟨by omega, ?_⟩
  have hget : (unreadCells c s)[k]? = some (some bs[k]) := by simp [h, hk]
  simpa [unreadCells, hav, hk] using hget

theorem Framed.bytesAvailable_eq {c : Config} {s : State} {frames : List (List Byte)} {tail : List Byte}
    (h : Framed c s frames tail) : bytesAvailable c s = frames.flatten.length + tail.length := by
  rw [← length_unreadCells, h.cells, List.length_map, List.length_append]

/-- Advancing `rd` over the first frames leaves the others, and the frame in progress (43_frame_emitter.md
R167). -/
theorem Framed.advance {c : Config} {s : State} {front frames : List (List Byte)} {tail : List Byte}
    (h : Framed c s (front ++ frames) tail) (hrd : s.rd < c.capacity) (hwr : s.wr < c.capacity) :
    Framed c { s with rd := unreadIndex c s front.flatten.length } frames tail where
  whole f hf := h.whole f (List.mem_append_right _ hf)
  cells := by
    have hav := h.bytesAvailable_eq
    rw [List.flatten_append, List.length_append] at hav
    rw [unreadCells_advance hrd hwr (by omega), h.cells, List.flatten_append, List.append_assoc,
      List.map_append, List.drop_left' (List.length_map _)]
  storing hfsm hdiscard := by
    obtain ⟨hlen, hhead, hfs⟩ := h.storing hfsm hdiscard
    refine ⟨hlen, hhead, hfs.trans ?_⟩
    rw [List.flatten_append, List.length_append, ← Nat.add_assoc, ← Nat.mod_add_mod]
    rfl
  notStoring := h.notStoring

/-- A whole frame is a length byte and its body. -/
theorem wholeFrame_iff {f : List Byte} :
    wholeFrame f = true ↔ ∃ l body, f = l :: body ∧ body.length + 1 = footprint l := by
  cases f <;> simp [wholeFrame]

end Sys2Proof
end

section
/-! SUPPORT. What DRAIN does to a ring of complete frames (43_frame_emitter.md R160 to R170). -/

namespace Sys2Proof

open Sys2Proof.Machine

theorem includedLength_eq (c : Config) (l : Byte) :
    includedLength c l = l.toNat - 1 - c.checksumWidth := by
  unfold includedLength footprint
  omega

theorem recordFor_eq (c : Config) (epoch t : Micros) (l : Byte) (body : List Byte) :
    recordFor c epoch t (l :: body) =
      recordHeader c (elapsed epoch t) l ++ body.take (includedLength c l) := by
  simp [recordFor, recordHeader, includedLength_eq, elapsed, seconds, microseconds, originalLength,
    BitVec.ofNat_toNat]

theorem le_recordsFor (c : Config) (epoch : Micros) (frames : List (List Byte)) (now : Micros) (n : Nat) :
    now ≤ (recordsFor c epoch now n frames).2 := by
  induction frames generalizing now n with
  | nil => exact BitVec.le_refl now
  | cons f frames ih => exact BitVec.le_trans (clockSample_ge c now n) (ih _ _)

/-- emit_one at a complete head frame: its record, and `rd` moved over it (43_frame_emitter.md R166,
R167). -/
theorem emitOne_of_framed {c : Config} {s : State} {l : Byte} {body : List Byte}
    {frames : List (List Byte)} {tail : List Byte} (h : Framed c s ((l :: body) :: frames) tail)
    (hbody : body.length + 1 = footprint l) :
    emitOne c s = .ok (recordFor c s.startEpoch (clockSample c s.lastNow s.clockDraws) (l :: body),
      { drawClock c s.lastNow s with rd := unreadIndex c s (footprint l) }) := by
  have hcells : unreadCells c s = (l :: (body ++ (frames.flatten ++ tail))).map some := by
    simpa using h.cells
  have hincl : includedLength c l ≤ body.length := by unfold includedLength; omega
  refine emitOne_ok.2 ⟨l, body.take (includedLength c l), ?_, ?_, ?_, recordFor_eq .., rfl⟩
  · exact peekAt_of_unreadCells hcells (Nat.zero_lt_succ _)
  · refine peekFrom_ok.2 ⟨by simpa using hincl, fun j hj => ?_⟩
    have hj : j < includedLength c l := by simp at hj; omega
    refine (peekAt_of_unreadCells (s := drawClock c s.lastNow s) hcells (by simp; omega)).trans ?_
    simp [Nat.add_comm 1 j, List.getElem_append_left (show j < body.length by omega)]
  · rw [← length_unreadCells, hcells, ← hbody]
    simp

/-- After emit_one the other frames are unread, and the frame in progress. -/
theorem Framed.afterEmitOne {c : Config} {s : State} {l : Byte} {body : List Byte}
    {frames : List (List Byte)} {tail : List Byte} (h : Framed c s ((l :: body) :: frames) tail)
    (hbody : body.length + 1 = footprint l) (hrd : s.rd < c.capacity) (hwr : s.wr < c.capacity) :
    Framed c { drawClock c s.lastNow s with rd := unreadIndex c s (footprint l) } frames tail := by
  have h1 := Framed.advance (front := [l :: body]) h hrd hwr
  simp only [List.flatten_singleton, List.length_cons, hbody] at h1
  exact ⟨h1.whole, h1.cells, h1.storing, h1.notStoring⟩

theorem drainLoop_of_empty {c : Config} {s : State} (fuel : Nat) (bs : List Byte)
    (h : bytesAvailable c s = 0) : drainLoop c fuel bs s = .ok (bs, s) := by
  cases fuel <;> simp [drainLoop, h]

/-- One pass of DRAIN's loop over a complete head frame, after which the loop goes on: with nothing left
unread it stops there (43_frame_emitter.md R168, R169). -/
theorem drainLoop_succ_of_complete {c : Config} {s t : State} {l : Byte} {record : List Byte} (fuel : Nat)
    (bs : List Byte) (hl : peekAt c 0 s = .ok l) (hle : footprint l ≤ bytesAvailable c s)
    (he : emitOne c s = .ok (record, t)) (ht : bytesAvailable c t + footprint l = bytesAvailable c s) :
    drainLoop c (fuel + 1) bs s = drainLoop c fuel (bs ++ record) t := by
  have hpos : 1 ≤ footprint l := Nat.le_max_right ..
  have hne : bytesAvailable c s ≠ 0 := by omega
  rw [drainLoop]
  simp only [hne, if_false, hl, Nat.not_lt.2 hle, he]
  split
  · exact (drainLoop_of_empty _ _ (by omega)).symm
  · rfl

/-- The unread part of a frame in progress is shorter than its footprint, and DRAIN's loop leaves it and
`fi` as they are (43_frame_emitter.md R168). -/
theorem drainLoop_of_inProgress {c : Config} {s : State} {tail : List Byte} (fuel : Nat) (bs : List Byte)
    (h : Framed c s [] tail) (hrd : s.rd < c.capacity)
    (hcap : s.fsm = .capturingBody → s.cnt.toNat + 1 < s.len.toNat) :
    drainLoop c fuel bs s = .ok (bs, s) := by
  have hav : bytesAvailable c s = tail.length := by simpa using h.bytesAvailable_eq
  cases tail with
  | nil => exact drainLoop_of_empty fuel bs hav
  | cons l tail =>
    have hfsm : s.fsm = .capturingBody := by
      cases hf : s.fsm with
      | awaitingLength => exact absurd (h.notStoring (.inl hf)) (List.cons_ne_nil _ _)
      | capturingBody => rfl
    have hdiscard : s.discard = false := by
      cases hd : s.discard with
      | false => rfl
      | true => exact absurd (h.notStoring (.inr hd)) (List.cons_ne_nil _ _)
    obtain ⟨hlen, hhead, hfs⟩ := h.storing hfsm hdiscard
    obtain rfl : l = s.len := by simpa using hhead
    have hpeek : peekAt c 0 s = .ok s.len := peekAt_of_unreadCells h.cells (Nat.zero_lt_succ _)
    have hlong : s.len.toNat ≤ footprint s.len := Nat.le_max_left ..
    have hshort : bytesAvailable c s < footprint s.len := by have := hcap hfsm; omega
    have hne : bytesAvailable c s ≠ 0 := by omega
    have hhere : headInProgress s = true := by
      have : s.rd = s.fs := by simpa [Nat.mod_eq_of_lt hrd] using hfs.symm
      simp [headInProgress, hfsm, hdiscard, this]
    cases fuel with
    | zero => rfl
    | succ fuel => simp only [drainLoop, hne, hpeek, hshort, hhere, if_true, if_false]

/-- DRAIN's loop emits every complete frame, in order, and stops at the frame in progress
(43_frame_emitter.md R160, R168, R169). -/
theorem drainLoop_of_framed {c : Config} {s : State} {frames : List (List Byte)} {tail : List Byte}
    (fuel : Nat) (bs : List Byte) (h : Framed c s frames tail) (hrd : s.rd < c.capacity)
    (hwr : s.wr < c.capacity) (hcap : s.fsm = .capturingBody → s.cnt.toNat + 1 < s.len.toNat)
    (hfuel : frames.flatten.length ≤ fuel) :
    drainLoop c fuel bs s = .ok (bs ++ (recordsFor c s.startEpoch s.lastNow s.clockDraws frames).1,
      { drained c frames s with ready := s.ready }) := by
  induction frames generalizing s bs fuel with
  | nil =>
    rw [drainLoop_of_inProgress fuel bs h hrd hcap]
    simp [drained, recordsFor, Nat.mod_eq_of_lt hrd]
  | cons f frames ih =>
    obtain ⟨l, body, rfl, hbody⟩ := wholeFrame_iff.1 (h.whole f List.mem_cons_self)
    have hrest := h.afterEmitOne hbody hrd hwr
    have hav := h.bytesAvailable_eq
    have hav' := hrest.bytesAvailable_eq
    have hflat : ((l :: body) :: frames).flatten.length = footprint l + frames.flatten.length := by
      rw [List.flatten_cons, List.length_append, List.length_cons, hbody]
    have hpos : 1 ≤ footprint l := Nat.le_max_right ..
    obtain ⟨fuel, rfl⟩ : ∃ n, fuel = n + 1 := ⟨fuel - 1, by omega⟩
    have hpeek : peekAt c 0 s = .ok l := peekAt_of_unreadCells h.cells (Nat.zero_lt_succ _)
    rw [drainLoop_succ_of_complete fuel bs hpeek (by omega) (emitOne_of_framed h hbody) (by omega),
      ih fuel _ hrest (Nat.mod_lt _ (by omega)) hwr hcap (by omega)]
    have hrd' : (unreadIndex c s (footprint l) + frames.flatten.length) % c.capacity =
        (s.rd + ((l :: body) :: frames).flatten.length) % c.capacity := by
      rw [hflat, ← Nat.add_assoc, unreadIndex, Nat.mod_add_mod]
    have hdraws : s.clockDraws + 1 + frames.length = s.clockDraws + (frames.length + 1) := by omega
    simp only [drained, recordsFor, drawClock, List.append_assoc, List.length_cons, hrd', hdraws]

/-- DRAIN from a consistent state emits every complete frame and leaves the frame in progress
(43_frame_emitter.md R160). -/
theorem drainWith_of_framed {c : Config} {s : State} {frames : List (List Byte)} {tail : List Byte}
    (hs : Consistent c s) (h : Framed c s frames tail) (he : drainEnabled s = true) :
    drainWith c s = .next (sinkWrite c (recordsFor c s.startEpoch s.lastNow s.clockDraws frames).1
      (drained c frames s)) := by
  have hav := h.bytesAvailable_eq
  have hloop := drainLoop_of_framed (bytesAvailable c s) [] h hs.rd_lt hs.wr_lt
    (fun hf => (hs.capturing hf).2) (by omega)
  simp only [drainWith, he, if_true, hloop]
  rfl

end Sys2Proof
end

section
/-! SUPPORT. The steps keep the invariants of reachable states (10_state.md R42). -/

namespace Sys2Proof

open Sys2Proof.Machine

theorem consistent_reset {c : Config} (hc : c.wf) : Consistent c State.reset where
  wr_lt := Nat.lt_of_lt_of_le (by decide) hc.1
  rd_lt := Nat.lt_of_lt_of_le (by decide) hc.1
  fs_lt := Nat.lt_of_lt_of_le (by decide) hc.1
  ring_wf := reset_ring_wf
  ring_lt _ hx := nomatch hx
  discard_capturing h := nomatch h
  capturing h := nomatch h
  framed := ⟨[], [], ⟨nofun, rfl, nofun, fun _ => rfl⟩, fun _ => rfl⟩
  epoch_le h := nomatch h
  term_cause := by decide

/-- The invariants do not speak of the flags, the output and the model's own counts and inputs. -/
theorem Consistent.other_fields {c : Config} {s : State} (h : Consistent c s) (ovr fi : Bool)
    (out : List Byte) (inputs : List Input) (clockDraws sinkDraws drainWait drainTurns : Nat) :
    Consistent c { s with
      ovr := ovr, fi := fi, out := out, inputs := inputs, clockDraws := clockDraws
      sinkDraws := sinkDraws, drainWait := drainWait, drainTurns := drainTurns } :=
  have ⟨frames, tail, hf, hready⟩ := h.framed
  { h with framed := ⟨frames, tail, ⟨hf.whole, hf.cells, hf.storing, hf.notStoring⟩, hready⟩ }

theorem Consistent.withInputs {c : Config} {s : State} (h : Consistent c s) (inputs : List Input) :
    Consistent c { s with inputs := inputs } := h.other_fields ..

theorem Consistent.countTurn {c : Config} {s : State} (h : Consistent c s) (i : Instr) :
    Consistent c (countTurn i s) := by
  rw [countTurn_eq]
  exact h.other_fields ..

theorem Consistent.terminate {c : Config} {s : State} (h : Consistent c s) {k : Cause} (hk : k ≠ .none) :
    Consistent c (terminate k s) :=
  have ⟨frames, tail, hf, hready⟩ := h.framed
  { h with
    framed := ⟨frames, tail, ⟨hf.whole, hf.cells, hf.storing, hf.notStoring⟩, hready⟩
    term_cause := ⟨fun _ => hk, fun _ => rfl⟩ }

theorem Consistent.sinkWrite {c : Config} {s : State} (h : Consistent c s) (bs : List Byte) :
    Consistent c (sinkWrite c bs s) := by
  rcases sinkWrite_cases c bs s with ⟨-, hw⟩ | ⟨-, -, hw⟩ | ⟨-, -, hw⟩ <;> rw [hw]
  · exact h
  · exact h.other_fields ..
  · exact (h.terminate (k := .sinkClosed) nofun).other_fields ..

theorem Consistent.headerNext {c : Config} {s : State} (h : Consistent c s) :
    Consistent c (headerNext c s) := by
  obtain ⟨frames, tail, hf, hready⟩ := h.framed
  rcases headerNext_cases c s with ⟨-, hn⟩ | ⟨-, hn⟩ <;> rw [hn]
  · exact h
  · apply Consistent.sinkWrite
    exact { h with
      framed := ⟨frames, tail, ⟨hf.whole, hf.cells, hf.storing, hf.notStoring⟩, hready⟩
      epoch_le := fun _ => BitVec.le_refl _ }

theorem Consistent.drained {c : Config} {s : State} {frames : List (List Byte)} {tail : List Byte}
    (h : Consistent c s) (hf : Framed c s frames tail) : Consistent c (drained c frames s) :=
  have hrest := Framed.advance (front := frames) (frames := []) (by simpa using hf) h.rd_lt h.wr_lt
  { h with
    rd_lt := Nat.mod_lt _ (Nat.zero_lt_of_lt h.rd_lt)
    framed := ⟨[], tail, ⟨hrest.whole, hrest.cells, hrest.storing, hrest.notStoring⟩, fun _ => rfl⟩
    epoch_le := fun hd => BitVec.le_trans (h.epoch_le hd) (le_recordsFor ..) }

theorem Consistent.drainWith {c : Config} {s t : State} (h : Consistent c s)
    (hd : drainWith c s = .next t) : Consistent c t := by
  obtain ⟨frames, tail, hf, -⟩ := h.framed
  rcases drainWith_next hd with ⟨-, rfl⟩ | ⟨he, -⟩
  · exact h
  · rw [drainWith_of_framed h hf he] at hd
    cases hd
    exact (h.drained hf).sinkWrite _

/-! ING, one lemma per outcome of `ingNext_outcomes`. -/

theorem Consistent.mem_write_lt {c : Config} {s : State} (h : Consistent c s) (b : Byte) :
    ∀ x ∈ Memory.write s.ring s.wr b, x.1 < c.capacity := by
  intro x hx
  rcases Memory.mem_write hx with rfl | hx
  · exact h.wr_lt
  · exact h.ring_lt x hx

theorem Consistent.lengthDropped {c : Config} {s : State} (h : Consistent c s)
    (hfsm : s.fsm = .awaitingLength) (b : Byte) : Consistent c { s with
      len := b, cnt := 0, fs := s.wr, ovr := true, fi := true
      fsm := if isDegenerate b then .awaitingLength else .capturingBody
      discard := !isDegenerate b } := by
  obtain ⟨frames, tail, hf, hready⟩ := h.framed
  obtain rfl := hf.notStoring (.inl hfsm)
  exact { h with
    fs_lt := h.wr_lt
    discard_capturing := by cases isDegenerate b <;> simp
    capturing := by simp [isDegenerate]; omega
    framed := ⟨frames, [], ⟨hf.whole, hf.cells, by cases isDegenerate b <;> simp, fun _ => rfl⟩, hready⟩ }

theorem Consistent.lengthStored {c : Config} {s : State} (h : Consistent c s)
    (hfsm : s.fsm = .awaitingLength) (hroom : bytesAvailable c s ≠ c.capacity - 1) (b : Byte) :
    Consistent c { s with
      len := b, cnt := 0, fs := s.wr
      ring := Memory.write s.ring s.wr b
      wr := (s.wr + 1) % c.capacity
      fsm := if isDegenerate b then .awaitingLength else .capturingBody
      discard := false
      ready := s.ready || isDegenerate b } := by
  obtain ⟨frames, tail, hf, hready⟩ := h.framed
  obtain rfl := hf.notStoring (.inl hfsm)
  have hcells := unreadCells_push b h.wr_lt h.rd_lt hroom
  rw [hf.cells] at hcells
  have hwr : s.wr = (s.rd + frames.flatten.length) % c.capacity := by
    have hav : bytesAvailable c s = frames.flatten.length := hf.bytesAvailable_eq
    rw [← hav]
    exact (unreadIndex_available h.wr_lt h.rd_lt).symm
  refine { h with
    wr_lt := Nat.mod_lt _ (Nat.zero_lt_of_lt h.wr_lt)
    fs_lt := h.wr_lt
    ring_wf := Memory.wf_write _ _ h.ring_wf
    ring_lt := h.mem_write_lt b
    discard_capturing := nofun
    capturing := by simp [isDegenerate]; omega
    framed := ?_ }
  cases hdeg : isDegenerate b with
  | true =>
    have hwhole : wholeFrame [b] = true := by
      have : b.toNat ≤ 1 := of_decide_eq_true hdeg
      simp [wholeFrame, footprint]; omega
    refine ⟨frames ++ [[b]], [], ⟨?_, hcells.trans (by simp), nofun, fun _ => rfl⟩, by simp⟩
    simpa [or_imp, forall_and, hwhole] using hf.whole
  | false =>
    exact ⟨frames, [b], ⟨hf.whole, hcells.trans (by simp), fun _ _ => ⟨rfl, rfl, hwr⟩, by simp⟩,
      by simpa using hready⟩

/-- The body counter and the FSM after one more body byte (41_reassembly_fsm.md R112, R113). -/
theorem Consistent.capturing_next {c : Config} {s : State} (h : Consistent c s)
    (hfsm : s.fsm = .capturingBody) :
    bodyComplete (countBodyByte s) = decide (s.cnt.toNat + 2 = s.len.toNat) ∧
    (s.cnt + 1).toNat = s.cnt.toNat + 1 ∧
    ((if bodyComplete (countBodyByte s) then .awaitingLength else s.fsm) = FsmState.capturingBody →
      2 ≤ s.len.toNat ∧ (s.cnt + 1).toNat + 1 < s.len.toNat) := by
  obtain ⟨hlen, hcnt⟩ := h.capturing hfsm
  have hcomplete := bodyComplete_countBodyByte (s := s) (by omega)
  have hnext : (s.cnt + 1).toNat = s.cnt.toNat + 1 := by
    have := s.len.isLt
    rw [BitVec.toNat_add]
    exact Nat.mod_eq_of_lt (by simp; omega)
  refine ⟨hcomplete, hnext, fun hstill => ⟨hlen, ?_⟩⟩
  have : s.cnt.toNat + 2 ≠ s.len.toNat := by
    intro heq
    simp [hcomplete, heq] at hstill
  omega

theorem Consistent.bodyDropped {c : Config} {s : State} (h : Consistent c s)
    (hfsm : s.fsm = .capturingBody) (hdiscard : s.discard = false) : Consistent c { s with
      wr := s.fs, ovr := true, fi := true
      cnt := s.cnt + 1
      fsm := if bodyComplete (countBodyByte s) then .awaitingLength else s.fsm
      discard := !bodyComplete (countBodyByte s) } := by
  obtain ⟨frames, tail, hf, hready⟩ := h.framed
  obtain ⟨-, -, hfs⟩ := hf.storing hfsm hdiscard
  have hle : frames.flatten.length ≤ bytesAvailable c s := hf.bytesAvailable_eq ▸ Nat.le_add_right ..
  have hcells : unreadCells c (rollback s) = (frames.flatten ++ []).map some := by
    rw [unreadCells_rollback h.fs_lt h.rd_lt h.wr_lt hle hfs, hf.cells, List.map_append,
      List.take_left' (List.length_map _), List.append_nil]
  obtain ⟨-, -, hcapturing⟩ := h.capturing_next hfsm
  exact { h with
    wr_lt := h.fs_lt
    discard_capturing := by cases bodyComplete (countBodyByte s) <;> simp [hfsm]
    capturing := hcapturing
    framed := ⟨frames, [], ⟨hf.whole, hcells, by cases bodyComplete (countBodyByte s) <;> simp,
      fun _ => rfl⟩, hready⟩ }

theorem Consistent.bodyStored {c : Config} {s : State} (h : Consistent c s)
    (hfsm : s.fsm = .capturingBody) (hdiscard : s.discard = false)
    (hroom : bytesAvailable c s ≠ c.capacity - 1) (b : Byte) : Consistent c { s with
      ring := Memory.write s.ring s.wr b
      wr := (s.wr + 1) % c.capacity
      cnt := s.cnt + 1
      fsm := if bodyComplete (countBodyByte s) then .awaitingLength else s.fsm
      ready := s.ready || bodyComplete (countBodyByte s) } := by
  obtain ⟨frames, tail, hf, hready⟩ := h.framed
  obtain ⟨hlen, hhead, hfs⟩ := hf.storing hfsm hdiscard
  obtain ⟨hcomplete, hcnt, hcapturing⟩ := h.capturing_next hfsm
  have hcells := unreadCells_push b h.wr_lt h.rd_lt hroom
  rw [hf.cells] at hcells
  obtain ⟨l, tail, rfl⟩ := List.exists_cons_of_length_eq_add_one hlen
  obtain rfl : l = s.len := by simpa using hhead
  refine { h with
    wr_lt := Nat.mod_lt _ (Nat.zero_lt_of_lt h.wr_lt)
    ring_wf := Memory.wf_write _ _ h.ring_wf
    ring_lt := h.mem_write_lt b
    discard_capturing := by simp [hdiscard]
    capturing := hcapturing
    framed := ?_ }
  cases hc : bodyComplete (countBodyByte s) with
  | true =>
    have hwhole : wholeFrame (s.len :: (tail ++ [b])) = true := by
      have : s.cnt.toNat + 2 = s.len.toNat := of_decide_eq_true (hcomplete ▸ hc)
      simp [wholeFrame, footprint] at hlen ⊢; omega
    refine ⟨frames ++ [s.len :: (tail ++ [b])], [], ⟨?_, hcells.trans (by simp), nofun, fun _ => rfl⟩,
      by simp⟩
    simpa [or_imp, forall_and, hwhole] using hf.whole
  | false =>
    refine ⟨frames, s.len :: (tail ++ [b]), ⟨hf.whole, hcells.trans (by simp), fun _ _ => ⟨?_, rfl, hfs⟩,
      by simp [hfsm, hdiscard]⟩, by simpa using hready⟩
    show _ = (s.cnt + 1).toNat + 1
    simp at hlen ⊢; omega

theorem Consistent.byteDiscarded {c : Config} {s : State} (h : Consistent c s)
    (hfsm : s.fsm = .capturingBody) (hdiscard : s.discard = true) : Consistent c { s with
      cnt := s.cnt + 1
      fsm := if bodyComplete (countBodyByte s) then .awaitingLength else s.fsm
      discard := !bodyComplete (countBodyByte s) } := by
  obtain ⟨frames, tail, hf, hready⟩ := h.framed
  obtain rfl := hf.notStoring (.inr hdiscard)
  obtain ⟨-, -, hcapturing⟩ := h.capturing_next hfsm
  exact { h with
    discard_capturing := by cases bodyComplete (countBodyByte s) <;> simp [hfsm]
    capturing := hcapturing
    framed := ⟨frames, [], ⟨hf.whole, hf.cells, by cases bodyComplete (countBodyByte s) <;> simp,
      fun _ => rfl⟩, hready⟩ }

theorem Consistent.ingNext {c : Config} {s : State} (h : Consistent c s) (b : Byte) :
    Consistent c (ingNext c b s) := by
  rcases ingNext_outcomes c b s with ⟨-, hn⟩ | ⟨-, hfsm, -, hn⟩ | ⟨-, hfsm, hroom, hn⟩ |
    ⟨-, hfsm, hd, -, hn⟩ | ⟨-, hfsm, hd, hroom, hn⟩ | ⟨-, hfsm, hd, hn⟩ <;> rw [hn]
  · exact h
  · exact h.lengthDropped hfsm b
  · exact h.lengthStored hfsm hroom b
  · exact h.bodyDropped hfsm hd
  · exact h.bodyStored hfsm hd hroom b
  · exact h.byteDiscarded hfsm hd

end Sys2Proof
end

section
/-! SUPPORT. The widths and bits of the status outputs (10_state.md R38, R39). -/

namespace Sys2Proof.Machine

/-! The STATUS word is its flags, one bit each, below `cause` (10_state.md R38). -/

theorem getLsbD_append_bit_zero {n : Nat} (x : BitVec n) (b : Bool) :
    (x ++ BitVec.ofBool b).getLsbD 0 = b := by
  simp [BitVec.getLsbD_append, -BitVec.getLsbD_eq_getElem]

theorem getLsbD_append_bit_succ {n : Nat} (x : BitVec n) (b : BitVec 1) (i : Nat) :
    (x ++ b).getLsbD (i + 1) = x.getLsbD i := by
  simp [BitVec.getLsbD_append, -BitVec.getLsbD_eq_getElem]

theorem extractLsb'_append_bit {n : Nat} (x : BitVec n) (b : BitVec 1) (i k : Nat) :
    (x ++ b).extractLsb' (i + 1) k = x.extractLsb' i k :=
  BitVec.extractLsb'_append_eq_of_le (Nat.le_add_left 1 i)

theorem fsmState_code_eq (f : FsmState) : f.code = BitVec.ofBool (decide (f = .capturingBody)) := by
  cases f <;> rfl

/-- IW bits hold every number below N (00_scope.md R8). -/
theorem lt_two_pow_indexWidth {c : Config} {n : Nat} (h : n < c.capacity) : n < 2 ^ c.indexWidth :=
  calc n < c.capacity := h
    _ ≤ 2 ^ Nat.clog 2 c.capacity := Nat.le_pow_clog (by decide) _
    _ ≤ 2 ^ c.indexWidth := Nat.pow_le_pow_right (by decide) (Nat.le_max_right ..)

end Sys2Proof.Machine
end

section
/-! SUPPORT. The statements of 10_state.md's family about the invariants and the status outputs, settled. -/

namespace Sys2Proof.Proofs

open Sys2Proof.Machine

/-- Settles O46: at reset nothing is unread and no frame is in progress. -/
theorem resetIsConsistent : Obligations.ResetIsConsistent := consistent_reset Config.machine_wf

/-- Settles O47, by what a step can be: each of them keeps the invariants. -/
theorem stepKeepsConsistent : Obligations.StepKeepsConsistent := by
  intro s t hs h
  rcases step_next_cases h with ⟨b, rest, -, rfl⟩ | ⟨rest, -, hd⟩ | ⟨rest, -, rfl⟩ | ⟨rest, -, rfl⟩ |
    ⟨rest, rfl⟩ | rfl
  · exact ((hs.withInputs rest).countTurn (.ing b)).ingNext b
  · exact ((hs.withInputs rest).countTurn .drain).drainWith hd
  · exact (hs.withInputs rest).terminate nofun
  · exact (hs.withInputs rest).headerNext
  · exact (consistent_reset Config.machine_wf).other_fields ..
  · exact hs

/-- Settles O44: the bits above a flag's are those of the word without it. -/
theorem statusWordLayout : Obligations.StatusWordLayout := by
  intro s
  unfold status
  rw [fsmState_code_eq]
  refine ⟨getLsbD_append_bit_zero .., ?_, ?_, ?_, ?_, ?_, ?_, ?_, ?_⟩
  iterate 6
    · repeat rw [getLsbD_append_bit_succ]
      exact getLsbD_append_bit_zero ..
  · iterate 7 rw [extractLsb'_append_bit]
    cases s.cause <;> rfl
  · iterate 7 rw [extractLsb'_append_bit]
    cases s.cause <;> rfl

/-- Settles O45: the cursors and the occupancy lie below N. -/
theorem statusOutputsLoseNothing : Obligations.StatusOutputsLoseNothing := by
  intro c s _ hwr hrd
  have shown {n : Nat} (h : n < c.capacity) : (BitVec.ofNat c.indexWidth n).toNat = n :=
    (BitVec.toNat_ofNat n _).trans (Nat.mod_eq_of_lt (lt_two_pow_indexWidth h))
  exact ⟨rfl, rfl, shown hwr, shown hrd, shown (bytesAvailable_lt hwr)⟩

end Sys2Proof.Proofs
end

section
/-! SUPPORT. The bytes the source offers, before a step and after it (20_memory.md R72), and the bytes of a
multi-byte field (20_memory.md R62). -/

namespace Sys2Proof.Machine

/-! What each input offers. -/

@[simp] theorem offeredBytes_header_cons (xs : List Input) :
    offeredBytes (.header :: xs) = offeredBytes xs := rfl

@[simp] theorem offeredBytes_reset_cons (xs : List Input) :
    offeredBytes (.reset :: xs) = offeredBytes xs := rfl

theorem offeredBytes_ing_cons {w : EventWord} {b : Byte} (hw : decode w = .ok (.ing b)) (xs : List Input) :
    offeredBytes (.event w :: xs) = b :: offeredBytes xs := by
  simp [offeredBytes, hw]

theorem offeredBytes_event_cons_of_not_ing {w : EventWord} (hw : ∀ b, decode w ≠ .ok (.ing b))
    (xs : List Input) : offeredBytes (.event w :: xs) = offeredBytes xs := by
  cases hd : decode w with
  | error r => simp [offeredBytes, hd]
  | ok i =>
    cases i with
    | ing b => exact absurd hd (hw b)
    | drain => simp [offeredBytes, hd]
    | srcerr => simp [offeredBytes, hd]

/-- Where ING is enabled, inputs that must wait offer no byte: an ING would be selectable. -/
theorem offeredBytes_eq_nil_of_waiting {s : State} (hs : ingEnabled s = true) {xs : List Input}
    (hxs : ∀ x ∈ xs, selectable s x = false) : offeredBytes xs = [] := by
  induction xs with
  | nil => rfl
  | cons x xs ih =>
    obtain ⟨hx, hrest⟩ := List.forall_mem_cons.1 hxs
    have htail : offeredBytes xs = [] := ih hrest
    cases x with
    | header => exact htail
    | reset => exact htail
    | event w =>
      have hw : ∀ b, decode w ≠ .ok (.ing b) := fun b hb => by simp [selectable, hb, enabled, hs] at hx
      rw [offeredBytes_event_cons_of_not_ing hw, htail]

/-- A step takes the bytes it consumes off the front of the bytes that are offered. -/
theorem step_offeredBytes {s t : State} (h : step s = .next t) :
    offeredBytes s.inputs = (pick Config.machine s).bytes ++ offeredBytes t.inputs := by
  rcases pick_cases Config.machine s with ⟨w, i, pre, post, hin, hw, hi, hpre, -, hp⟩ | ⟨-, -, hp⟩ |
    ⟨-, -, hp⟩ | ⟨pre, post, hin, -, -, hp⟩ | ⟨pre, post, hin, -, hp⟩ |
    ⟨w, r, pre, post, -, -, -, hp⟩ | ⟨-, -, -, hp⟩ <;> simp only [step, hp] at h
  · -- an event that is presented
    have ht : t.inputs = pre ++ post := by simpa using exec_inputs h
    rw [hin, hp, ht, offeredBytes_append, offeredBytes_append]
    cases i with
    | ing b =>
      rw [offeredBytes_ing_cons hw, offeredBytes_eq_nil_of_waiting hi hpre]
      rfl
    | drain => simp [Action.bytes, offeredBytes_event_cons_of_not_ing, hw]
    | srcerr => simp [Action.bytes, offeredBytes_event_cons_of_not_ing, hw]
  · -- the emitter's own DRAIN
    simp [hp, Action.bytes, exec_inputs h]
  · -- HDR by itself
    cases h; simp [hp, Action.bytes]
  · -- HDR picked by the scheduler
    cases h; simp [hp, Action.bytes, hin, offeredBytes_append]
  · -- RESET
    cases h; simp [hp, Action.bytes, hin, offeredBytes_append]
  · -- a reserved word, which is refused
    cases h
  · -- no step
    cases h; simp [hp, Action.bytes]

/-- An ING is picked only where it is enabled, and runs in the state without its word. -/
theorem pick_ing {c : Config} {s u : State} {b : Byte} (h : pick c s = .run (.ing b) u) :
    ingEnabled s = true ∧ ∃ rest, u = countTurn (.ing b) { s with inputs := rest } := by
  rcases pick_cases c s with ⟨w, i, pre, post, -, -, hi, -, -, hp⟩ | ⟨-, -, hp⟩ | ⟨-, -, hp⟩ |
    ⟨pre, post, -, -, -, hp⟩ | ⟨pre, post, -, -, hp⟩ | ⟨w, r, pre, post, -, -, -, hp⟩ |
    ⟨-, -, -, hp⟩ <;> rw [hp] at h <;> cases h
  exact ⟨hi, pre ++ post, rfl⟩

/-- A step that is no ING consumes no byte. -/
theorem Action.bytes_eq_nil_or_ing (a : Action) : a.bytes = [] ∨ ∃ b u, a = .run (.ing b) u := by
  cases a with
  | run i u =>
    cases i with
    | ing b => exact .inr ⟨b, u, rfl⟩
    | drain => exact .inl rfl
    | srcerr => exact .inl rfl
  | header u => exact .inl rfl
  | reset u => exact .inl rfl
  | reject r => exact .inl rfl
  | wait => exact .inl rfl

/-- A step consumes no byte, or is an enabled ING of the first byte that is offered. -/
theorem step_consumes_none_or_first {s t : State} (h : step s = .next t) :
    offeredBytes t.inputs = offeredBytes s.inputs ∨
    ∃ b, offeredBytes s.inputs = b :: offeredBytes t.inputs ∧ ingEnabled s = true ∧
      ∃ rest, t = ingNext Config.machine b (countTurn (.ing b) { s with inputs := rest }) := by
  have hoffered := step_offeredBytes h
  rcases (pick Config.machine s).bytes_eq_nil_or_ing with hnone | ⟨b, u, hp⟩
  · rw [hnone] at hoffered
    exact .inl hoffered.symm
  · obtain ⟨hs, rest, rfl⟩ := pick_ing hp
    rw [hp] at hoffered
    simp only [step, hp] at h
    cases h
    exact .inr ⟨b, hoffered, hs, rest, rfl⟩

/-- The byte of a word at bit `i`: the word over `2 ^ i`, mod 256. -/
theorem toNat_byteAt {n : Nat} (v : BitVec n) (i : Nat) :
    (v.extractLsb' i 8).toNat = v.toNat / 2 ^ i % 256 := by
  rw [BitVec.extractLsb'_toNat, Nat.shiftRight_eq_div_pow]

end Sys2Proof.Machine
end

section
/-! SUPPORT. The statements of 20_memory.md's family, settled. -/

namespace Sys2Proof.Proofs

open Sys2Proof.Machine

/-- Settles O8: the bytes are the digits of the word to the base 256. -/
theorem fieldsAreLittleEndian : Obligations.FieldsAreLittleEndian := by
  refine ⟨fun v => ⟨_, _, rfl, ?_⟩, fun v => ⟨_, _, _, _, rfl, ?_⟩⟩
  · rw [toNat_byteAt v 0, toNat_byteAt v 8]
    omega
  · rw [toNat_byteAt v 0, toNat_byteAt v 8, toNat_byteAt v 16, toNat_byteAt v 24]
    omega

/-- Settles O10: the bytes a step consumes are a front part of those offered, and only an enabled ING
consumes one. -/
theorem inputIsConsumedInDeliveryOrder : Obligations.InputIsConsumedInDeliveryOrder := by
  refine ⟨fun _ _ => step_consumes_none_or_first, fun s t hs h => ?_⟩
  rcases step_consumes_none_or_first h with hsame | ⟨b, -, hing, -⟩
  · exact hsame
  · rw [hs] at hing
    cases hing

end Sys2Proof.Proofs
end

section
/-! SUPPORT. The fields of an event word, and which words the rows of the decode table select
(30_encoding.md R87 to R90). -/

namespace Sys2Proof

theorem kind_append_data (w : EventWord) : eventKind w ++ eventData w = w :=
  (BitVec.extractLsb'_append_extractLsb'_eq_extractLsb' rfl).trans BitVec.extractLsb'_eq_self

/-- The mask of ING's row keeps `kind` and clears `data`. -/
theorem and_kindMask (w : EventWord) : w &&& 0x300#10 = eventKind w ++ 0#8 := by
  calc w &&& 0x300#10
      = (eventKind w ++ eventData w) &&& (BitVec.allOnes 2 ++ 0#8) := by rw [kind_append_data]; rfl
    _ = eventKind w ++ 0#8 := by rw [BitVec.and_append, BitVec.and_allOnes, BitVec.and_zero]

/-- The mask of the two other rows keeps the whole word. -/
theorem and_wordMask (w : EventWord) : w &&& 0x3FF#10 = w := BitVec.and_allOnes

theorem eventKind_eq_iff (w : EventWord) (k : BitVec 2) : eventKind w = k ↔ w.toNat / 256 = k.toNat := by
  have hkind : (eventKind w).toNat = w.toNat / 256 % 4 := by
    rw [eventKind, BitVec.extractLsb'_toNat, Nat.shiftRight_eq_div_pow]
  rw [← BitVec.toNat_inj, hkind]
  omega

/-! Each row's words (30_encoding.md R88). -/

theorem selects_ing_iff (w : EventWord) (b : Byte) :
    w &&& rowMask (.ing b) = rowMatch (.ing b) ↔ eventKind w = 0#2 := by
  show w &&& 0x300#10 = 0#2 ++ 0#8 ↔ _
  rw [and_kindMask]
  exact BitVec.append_left_inj _

theorem selects_drain_iff (w : EventWord) : w &&& rowMask .drain = rowMatch .drain ↔ w = 0x100#10 := by
  show w &&& 0x3FF#10 = 0x100#10 ↔ _
  rw [and_wordMask]

theorem selects_srcerr_iff (w : EventWord) : w &&& rowMask .srcerr = rowMatch .srcerr ↔ w = 0x200#10 := by
  show w &&& 0x3FF#10 = 0x200#10 ↔ _
  rw [and_wordMask]

/-- A word that selects no row lies in one of the reserved ranges (30_encoding.md R90). -/
theorem selects_no_row_iff (w : EventWord) :
    (∀ i, w &&& rowMask i ≠ rowMatch i) ↔
      (0x100 < w.toNat ∧ w.toNat < 0x200) ∨ (0x200 < w.toNat ∧ w.toNat < 0x300) ∨ 0x300 ≤ w.toNat := by
  have hrows : (∀ i, w &&& rowMask i ≠ rowMatch i) ↔
      eventKind w ≠ 0#2 ∧ w ≠ 0x100#10 ∧ w ≠ 0x200#10 := by
    constructor
    · intro h
      exact ⟨mt (selects_ing_iff w 0).2 (h _), mt (selects_drain_iff w).2 (h _),
        mt (selects_srcerr_iff w).2 (h _)⟩
    · rintro ⟨hing, hdrain, hsrcerr⟩ i
      cases i with
      | ing b => exact mt (selects_ing_iff w b).1 hing
      | drain => exact mt (selects_drain_iff w).1 hdrain
      | srcerr => exact mt (selects_srcerr_iff w).1 hsrcerr
  rw [hrows, ne_eq, eventKind_eq_iff, ← BitVec.toNat_ne_iff_ne, ← BitVec.toNat_ne_iff_ne]
  simp only [BitVec.toNat_ofNat]
  omega

/-! What the decoder answers, from the row that is selected. -/

/-- The decoder answers with the row that the word selects, and with the word's `data` as ING's operand. -/
theorem exists_decode_of_selects {w : EventWord} {i : Instr} (hsel : w &&& rowMask i = rowMatch i) :
    ∃ j, decode w = .ok j ∧ rowMatch j = rowMatch i ∧
      ((∀ b, i = .ing b → b = eventData w) → j = i) := by
  cases i with
  | ing b =>
    have hsel : w &&& 0x300#10 = 0x000#10 := hsel
    exact ⟨.ing (eventData w), if_pos hsel, rfl, fun hdata => by rw [hdata b rfl]⟩
  | drain =>
    obtain rfl := (selects_drain_iff w).1 hsel
    exact ⟨.drain, rfl, rfl, fun _ => rfl⟩
  | srcerr =>
    obtain rfl := (selects_srcerr_iff w).1 hsel
    exact ⟨.srcerr, rfl, rfl, fun _ => rfl⟩

theorem decode_eq_ok_iff (w : EventWord) (i : Instr) :
    decode w = .ok i ↔ w &&& rowMask i = rowMatch i ∧ ∀ b, i = .ing b → b = eventData w := by
  constructor
  · intro h
    rcases decode_cases w with ⟨hsel, hd⟩ | ⟨hsel, hd⟩ | ⟨hsel, hd⟩ | hd <;> rw [hd] at h <;> cases h
    · exact ⟨hsel, fun b hb => (Instr.ing.inj hb).symm⟩
    · exact ⟨hsel, nofun⟩
    · exact ⟨hsel, nofun⟩
  · rintro ⟨hsel, hdata⟩
    obtain ⟨j, hj, -, hji⟩ := exists_decode_of_selects hsel
    rw [hj, hji hdata]

/-- A word that selects no row is refused under the name its `kind` gives it (30_encoding.md R90). -/
theorem decode_of_selects_no_row {w : EventWord} (h : ∀ i, w &&& rowMask i ≠ rowMatch i) :
    decode w = .error (reservedName w) := by
  rcases decode_cases w with ⟨hsel, -⟩ | ⟨hsel, -⟩ | ⟨hsel, -⟩ | hd
  · exact absurd hsel (h (.ing 0))
  · exact absurd hsel (h .drain)
  · exact absurd hsel (h .srcerr)
  · exact hd

theorem decode_of_reserved {w : EventWord} {k : BitVec 2} (h : ∀ i, w &&& rowMask i ≠ rowMatch i)
    (hk : w.toNat / 256 = k.toNat) :
    decode w = .error (if k = 1#2 then .drainData else if k = 2#2 then .srcerrData else .kind3) := by
  rw [decode_of_selects_no_row h, reservedName, (eventKind_eq_iff w k).2 hk]

/-! Encoding and decoding (30_encoding.md R87 to R89). -/

theorem Instr.wf_eq_true (i : Instr) : i.wf = true := by
  cases i with
  | ing b => exact decide_eq_true (Nat.le_of_lt_succ b.isLt)
  | drain => rfl
  | srcerr => rfl

theorem rowWord_statement (i : Instr) : Laws.RowWord.Statement i := by
  cases i with
  | ing b => exact Laws.RowWord.ing b
  | drain => exact Laws.RowWord.drain
  | srcerr => exact Laws.RowWord.srcerr

theorem decode_encode (i : Instr) : decode (encode i) = .ok i := by
  obtain ⟨hsel, hdata⟩ := rowWord_statement i
  refine (decode_eq_ok_iff _ _).2 ⟨hsel, ?_⟩
  rintro b rfl
  exact hdata.symm

theorem encode_of_decode {w : EventWord} {i : Instr} (h : decode w = .ok i) : encode i = w := by
  obtain ⟨hsel, hdata⟩ := (decode_eq_ok_iff w i).1 h
  cases i with
  | ing b =>
    calc encode (.ing b)
        = eventKind w ++ eventData w := by rw [(selects_ing_iff w b).1 hsel, ← hdata b rfl]; rfl
      _ = w := kind_append_data w
  | drain => exact ((selects_drain_iff w).1 hsel).symm
  | srcerr => exact ((selects_srcerr_iff w).1 hsel).symm

end Sys2Proof
end

section
/-! SUPPORT. A reserved word at the front of the inputs (30_encoding.md R90). -/

namespace Sys2Proof.Machine

theorem pick_of_reserved_front {c : Config} {w : EventWord} {r : ReservedWord} {rest : List Input}
    {s : State} (hin : s.inputs = .event w :: rest) (hw : decode w = .error r) :
    pick c s = .reject r := by
  have hsel : selectable s (.event w) = true := by simp [selectable, hw]
  have hfront : frontWaits s = false := by simp [frontWaits, hin, hsel]
  have hfirst : selectFirst s s.inputs = some (.event w, rest) := by simp [hin, selectFirst, hsel]
  simp [pick, hfront, hfirst, hw]

end Sys2Proof.Machine
end

section
/-! SUPPORT. What the assembler makes (30_encoding.md R93, R94). -/

namespace Sys2Proof

theorem AsmLine.expand_bytes {ns : List Nat} (h : (⟨.bytes, ns⟩ : AsmLine).wf = true) :
    (⟨.bytes, ns⟩ : AsmLine).expand = some (ingEach ns) := if_pos h

theorem AsmLine.expand_frame {ns : List Nat} (h : (⟨.frame, ns⟩ : AsmLine).wf = true) :
    (⟨.frame, ns⟩ : AsmLine).expand = some (.ing (BitVec.ofNat 8 (ns.length + 1)) :: ingEach ns) := if_pos h

theorem AsmLine.expand_of_not_wf {l : AsmLine} (h : ¬ l.wf = true) : l.expand = none := if_neg h

theorem AsmLine.wf_iff (l : AsmLine) :
    l.wf = true ↔ (∀ n ∈ l.operands, n ≤ 255) ∧ l.arityOk = true := by
  simp [AsmLine.wf]

/-- A line's words encode the events it stands for. -/
theorem assembleLine_words {cs : List Char} {ws : List EventWord} (h : assembleLine cs = .ok ws) :
    ∃ instrs : List Instr, ws = instrs.map encode := by
  unfold assembleLine at h
  split at h
  · cases h
  · cases h; exact ⟨[], rfl⟩
  · split at h
    · cases h
    · next instrs _ => cases h; exact ⟨instrs, rfl⟩

/-- A program's words encode the events it stands for. -/
theorem assemble_words {text : List (List Char)} {ws : List EventWord} (h : assemble text = .ok ws) :
    ∃ instrs : List Instr, ws = instrs.map encode := by
  induction text generalizing ws with
  | nil => cases h; exact ⟨[], rfl⟩
  | cons l ls ih =>
    obtain ⟨us, vs, hline, hrest, rfl⟩ := assemble_cons.1 h
    obtain ⟨first, rfl⟩ := assembleLine_words hline
    obtain ⟨others, rfl⟩ := ih hrest
    exact ⟨first ++ others, List.map_append.symm⟩

end Sys2Proof
end

section
/-! SUPPORT. The output stream: a global header, then frame records (30_encoding.md R84 to R86,
43_frame_emitter.md R166, R181). -/

namespace Sys2Proof

open Sys2Proof.Machine

/-- The bytes are those of some frame records, one after another (30_encoding.md R86). -/
def IsRecordStream (c : Config) (bs : List Byte) : Prop :=
  ∃ records : List (List Byte), (∀ r ∈ records, IsRecord c r) ∧ bs = records.flatten

theorem isRecordStream_nil (c : Config) : IsRecordStream c [] := ⟨[], by simp, rfl⟩

theorem IsRecord.stream {c : Config} {r : List Byte} (h : IsRecord c r) : IsRecordStream c r :=
  ⟨[r], by simpa using h, by simp⟩

theorem IsRecordStream.append {c : Config} {xs ys : List Byte} (hx : IsRecordStream c xs)
    (hy : IsRecordStream c ys) : IsRecordStream c (xs ++ ys) := by
  obtain ⟨rs, hrs, rfl⟩ := hx
  obtain ⟨qs, hqs, rfl⟩ := hy
  refine ⟨rs ++ qs, fun r hr => ?_, List.flatten_append.symm⟩
  exact (List.mem_append.1 hr).elim (hrs r) (hqs r)

/-- A record header and a payload of its included length make a frame record (30_encoding.md R84, R85). -/
theorem isRecord_recordHeader {c : Config} {l : Byte} {payload : List Byte} (e : Nat)
    (hlen : payload.length = includedLength c l) : IsRecord c (recordHeader c e l ++ payload) := by
  refine ⟨seconds e, e % 1000000, l, payload, Nat.mod_lt _ (by decide), hlen, ?_⟩
  rw [recordHeader, microseconds, originalLength, BitVec.ofNat_toNat]

/-- What emit_one gives is a frame record (43_frame_emitter.md R166). -/
theorem emitOne_isRecord {c : Config} {s t : State} {r : List Byte} (h : emitOne c s = .ok (r, t)) :
    IsRecord c r := by
  obtain ⟨l, payload, -, hpayload, -, rfl, -⟩ := emitOne_ok.1 h
  exact isRecord_recordHeader _ (peekFrom_ok.1 hpayload).1

/-- What DRAIN's loop gathers is a stream of frame records (43_frame_emitter.md R160). -/
theorem drainLoop_isRecordStream {c : Config} {fuel : Nat} {bs : List Byte} {s t : State}
    (h : drainLoop c fuel [] s = .ok (bs, t)) : IsRecordStream c bs :=
  drainLoop_keeps (P := fun xs _ => IsRecordStream c xs)
    (fun hxs he => hxs.append (emitOne_isRecord he).stream) id (isRecordStream_nil c) h

theorem outputShaped_of_out_nil {c : Config} {s : State} (hdone : s.hdrDone = false) (hout : s.out = []) :
    OutputShaped c s where
  before_header _ := hout
  stream := ⟨[], by simp [hout, hdone]⟩

/-- While the session lasts, the output after HDR is the whole global header and whole records. -/
theorem OutputShaped.out_of_live {c : Config} {s : State} (h : OutputShaped c s) (hdone : s.hdrDone = true)
    (hterm : s.term = false) : ∃ rs, IsRecordStream c rs ∧ s.out = globalHeader ++ rs := by
  obtain ⟨records, hrecords, -, hwhole⟩ := h.stream
  exact ⟨_, ⟨records, hrecords, rfl⟩, hwhole hdone hterm⟩

/-- A step that writes nothing and does not end a termination keeps the shape. -/
theorem OutputShaped.of_out_eq {c : Config} {s t : State} (h : OutputShaped c s)
    (hdone : t.hdrDone = s.hdrDone) (hout : t.out = s.out) (hterm : t.term = false → s.term = false) :
    OutputShaped c t where
  before_header hd := hout.trans (h.before_header (hdone ▸ hd))
  stream := by
    obtain ⟨records, hrecords, hfront, hwhole⟩ := h.stream
    exact ⟨records, hrecords, hout ▸ hfront,
      fun hd ht => hout.trans (hwhole (hdone ▸ hd) (hterm ht))⟩

/-- A write that brings the output to the global header and whole records leaves a shaped output, cut short
only where the sink has closed (60_exceptions.md R223). -/
theorem outputShaped_sinkWrite {c : Config} {s : State} {bs rs : List Byte} (hdone : s.hdrDone = true)
    (hrs : IsRecordStream c rs) (hout : s.out ++ bs = globalHeader ++ rs) :
    OutputShaped c (sinkWrite c bs s) where
  before_header hd := by simp [hdone] at hd
  stream := by
    obtain ⟨records, hrecords, rfl⟩ := hrs
    refine ⟨records, hrecords, ?_⟩
    rw [← hout]
    rcases sinkWrite_cases c bs s with ⟨rfl, h⟩ | ⟨-, -, h⟩ | ⟨-, -, h⟩ <;> rw [h]
    · simp
    · simp
    · exact ⟨⟨bs.drop (c.sink s.sinkDraws), by simp⟩, nofun⟩

theorem OutputShaped.headerNext {c : Config} {s : State} (h : OutputShaped c s) :
    OutputShaped c (headerNext c s) := by
  rcases headerNext_cases c s with ⟨-, hn⟩ | ⟨he, hn⟩ <;> rw [hn]
  · exact h
  · have hdone : s.hdrDone = false := by
      simp only [headerEnabled, Bool.and_eq_true, Bool.not_eq_true'] at he
      exact he.1
    refine outputShaped_sinkWrite rfl (isRecordStream_nil c) ?_
    simp [h.before_header hdone]

theorem OutputShaped.drainWith {c : Config} {s t : State} (h : OutputShaped c s)
    (hd : drainWith c s = .next t) : OutputShaped c t := by
  rcases drainWith_cases c s with ⟨-, hn⟩ | ⟨-, f, -, hn⟩ | ⟨he, bs, u, hloop, hn⟩ <;>
    rw [hn] at hd <;> cases hd
  · exact h
  · obtain ⟨rd, now, draws, fi, rfl, -, -⟩ := drainLoop_reaches hloop
    obtain ⟨⟨-, hdone⟩, hterm⟩ : (s.ready = true ∧ s.hdrDone = true) ∧ s.term = false := by
      simpa [drainEnabled] using he
    obtain ⟨rs, hrs, hout⟩ := h.out_of_live hdone hterm
    refine outputShaped_sinkWrite hdone (hrs.append (drainLoop_isRecordStream hloop)) ?_
    rw [← List.append_assoc, ← hout]

end Sys2Proof
end

section
/-! SUPPORT. The statements of 30_encoding.md's family, settled. -/

namespace Sys2Proof.Proofs

open Sys2Proof.Machine

/-- Settles O3: a word is its `kind` above its `data`, and the row it selects fixes all the other bits. -/
theorem decodeAndEncodeAreInverse : Obligations.DecodeAndEncodeAreInverse :=
  ⟨fun i _ => decode_encode i, fun _ i h => ⟨i.wf_eq_true, encode_of_decode h⟩⟩

/-- Settles O49, by what a step can be: only HDR and DRAIN write, and they write the header and records. -/
theorem stepKeepsOutputShaped : Obligations.StepKeepsOutputShaped := by
  intro s t hs h
  rcases step_next_cases h with ⟨b, rest, -, rfl⟩ | ⟨rest, -, hd⟩ | ⟨rest, -, rfl⟩ | ⟨rest, -, rfl⟩ |
    ⟨rest, rfl⟩ | rfl
  · exact hs.of_out_eq (by simp) (by simp) (by simp)
  · have hcounted : OutputShaped Config.machine (countTurn .drain { s with inputs := rest }) :=
      hs.of_out_eq rfl rfl id
    exact hcounted.drainWith hd
  · exact hs.of_out_eq rfl rfl nofun
  · have htaken : OutputShaped Config.machine { s with inputs := rest } := hs.of_out_eq rfl rfl id
    exact htaken.headerNext
  · exact outputShaped_of_out_nil rfl rfl
  · exact hs

/-- Settles O2: the decoder answers with a row that the word selects, and it has one answer. -/
theorem decodeSelectsTheMatchingRow : Obligations.DecodeSelectsTheMatchingRow := by
  refine ⟨decode_eq_ok_iff, fun w i j hi hj => ?_⟩
  obtain ⟨i', hi', hmatch_i, -⟩ := exists_decode_of_selects hi
  obtain ⟨j', hj', hmatch_j, -⟩ := exists_decode_of_selects hj
  have hsame : i' = j' := Except.ok.inj (hi'.symm.trans hj')
  rw [← hmatch_i, hsame, hmatch_j]

/-- Settles O4: in each range the word's `kind` is fixed, and with it the name. -/
theorem reservedWordsAreRefused : Obligations.ReservedWordsAreRefused := by
  refine ⟨selects_no_row_iff, fun w hlo hhi => ?_, fun w hlo hhi => ?_, fun w hlo => ?_,
    fun w r rest s hw hin => by rw [step, pick_of_reserved_front hin hw]⟩
  · have hno := (selects_no_row_iff w).2 (.inl ⟨hlo, hhi⟩)
    exact decode_of_reserved (k := 1#2) hno (by simp; omega)
  · have hno := (selects_no_row_iff w).2 (.inr (.inl ⟨hlo, hhi⟩))
    exact decode_of_reserved (k := 2#2) hno (by simp; omega)
  · have hno := (selects_no_row_iff w).2 (.inr (.inr hlo))
    exact decode_of_reserved (k := 3#2) hno (by simp; omega)

/-- Settles O6: every word is some event's encoding, by induction over the program's lines. -/
theorem assembledWordsDecode : Obligations.AssembledWordsDecode := by
  intro text ws h w hw
  obtain ⟨instrs, rfl⟩ := assemble_words h
  obtain ⟨i, -, rfl⟩ := List.mem_map.1 hw
  exact ⟨i, decode_encode i, rfl⟩

/-- Settles O37, from included_length as `L - 1 - CW` over the naturals, with `L` a byte. -/
theorem recordFieldRanges : Obligations.RecordFieldRanges := by
  intro c l e _
  have hl : l.toNat < 256 := l.isLt
  have horiginal : (originalLength l).toNat = l.toNat := by
    rw [originalLength, BitVec.toNat_setWidth]
    omega
  have husec : (microseconds e).toNat = e % 1000000 := by
    rw [microseconds, BitVec.toNat_ofNat]
    omega
  rw [includedLength_eq, horiginal, husec]
  omega

/-- Settles O1, word by word. -/
theorem specEventWordsDecode : Obligations.SpecEventWordsDecode := by
  unfold Obligations.SpecEventWordsDecode
  decide

/-- Settles O5: a well-formed line expands to its ING events, and more than 254 operands of FRAME are not
well formed. -/
theorem pseudoInstructionsExpand : Obligations.PseudoInstructionsExpand := by
  refine ⟨fun ns _ hns => ?_, fun ns hns hlen => ?_, rfl, fun ns hlen => ?_⟩
  · exact AsmLine.expand_bytes ((AsmLine.wf_iff _).2 ⟨hns, rfl⟩)
  · exact AsmLine.expand_frame ((AsmLine.wf_iff _).2 ⟨hns, decide_eq_true hlen⟩)
  · refine AsmLine.expand_of_not_wf fun hwf => ?_
    have hle : ns.length ≤ 254 := of_decide_eq_true ((AsmLine.wf_iff _).1 hwf).2
    omega

/-- Settles O7, by running le16 and le32. -/
theorem globalHeaderImage : Obligations.GlobalHeaderImage := rfl

/-- Settles O48: at reset HDR has not run and nothing is written. -/
theorem resetOutputIsShaped : Obligations.ResetOutputIsShaped := outputShaped_of_out_nil rfl rfl

end Sys2Proof.Proofs
end

section
/-! SUPPORT. Each arm of ING as one update of the state, in the numbers of the length byte and the counter
(41_reassembly_fsm.md R111 to R113). -/

namespace Sys2Proof.Machine

theorem ingNext_of_awaitingLength {c : Config} {s : State} (b : Byte) (he : ingEnabled s = true)
    (hfsm : s.fsm = .awaitingLength) : ingNext c b s = ingLength c b s := by
  simp [ingNext, ingArm, he, hfsm]

theorem ingNext_of_capturingBody {c : Config} {s : State} (b : Byte) (he : ingEnabled s = true)
    (hfsm : s.fsm = .capturingBody) (hd : s.discard = false) : ingNext c b s = ingBody c b s := by
  simp [ingNext, ingArm, he, hfsm, hd]

theorem ingNext_of_discarding {c : Config} {s : State} (b : Byte) (he : ingEnabled s = true)
    (hfsm : s.fsm = .capturingBody) (hd : s.discard = true) : ingNext c b s = ingDiscard b s := by
  simp [ingNext, ingArm, he, hfsm, hd]

/-- A length byte that is stored (41_reassembly_fsm.md R111, R114). -/
theorem ingNext_lengthStored {c : Config} {s : State} (b : Byte) (he : ingEnabled s = true)
    (hfsm : s.fsm = .awaitingLength) (hroom : bytesAvailable c s ≠ c.capacity - 1) :
    ingNext c b s = { s with
      len := b, cnt := 0, fs := s.wr
      ring := Memory.write s.ring s.wr b
      wr := (s.wr + 1) % c.capacity
      fsm := if b.toNat ≤ 1 then .awaitingLength else .capturingBody
      discard := false
      ready := if b.toNat ≤ 1 then true else s.ready } := by
  rw [ingNext_of_awaitingLength b he hfsm, ingLength_of_room b hroom]
  by_cases hb : b.toNat ≤ 1 <;> simp [isDegenerate, hb]

/-- A length byte that overruns (41_reassembly_fsm.md R111, R114). -/
theorem ingNext_lengthDropped {c : Config} {s : State} (b : Byte) (he : ingEnabled s = true)
    (hfsm : s.fsm = .awaitingLength) (hfull : bytesAvailable c s = c.capacity - 1) :
    ingNext c b s = { s with
      len := b, cnt := 0, fs := s.wr, ovr := true, fi := true
      fsm := if b.toNat ≤ 1 then .awaitingLength else .capturingBody
      discard := decide (2 ≤ b.toNat) } := by
  rw [ingNext_of_awaitingLength b he hfsm, ingLength_of_full b hfull]
  have hdeg : (!isDegenerate b) = decide (2 ≤ b.toNat) := by
    rw [isDegenerate, ← decide_not]
    exact decide_eq_decide.2 Nat.not_le
  rw [hdeg]
  simp [isDegenerate]

/-- The negated completion test over the counter before it is incremented. -/
theorem not_bodyComplete_countBodyByte {s : State} (h : s.cnt.toNat + 2 ≤ s.len.toNat) :
    (!bodyComplete (countBodyByte s)) = decide (s.cnt.toNat + 2 < s.len.toNat) := by
  rw [bodyComplete_countBodyByte h, ← decide_not]
  exact decide_eq_decide.2 ⟨Nat.lt_of_le_of_ne h, Nat.ne_of_lt⟩

/-- A body byte that is stored (41_reassembly_fsm.md R112). -/
theorem ingNext_bodyStored {c : Config} {s : State} (b : Byte) (he : ingEnabled s = true)
    (hfsm : s.fsm = .capturingBody) (hd : s.discard = false) (hcnt : s.cnt.toNat + 2 ≤ s.len.toNat)
    (hroom : bytesAvailable c s ≠ c.capacity - 1) :
    ingNext c b s = { s with
      ring := Memory.write s.ring s.wr b
      wr := (s.wr + 1) % c.capacity
      cnt := s.cnt + 1
      fsm := if s.cnt.toNat + 2 = s.len.toNat then .awaitingLength else .capturingBody
      ready := if s.cnt.toNat + 2 = s.len.toNat then true else s.ready } := by
  rw [ingNext_of_capturingBody b he hfsm hd, ingBody_of_room b hroom hd, bodyComplete_countBodyByte hcnt]
  by_cases hlast : s.cnt.toNat + 2 = s.len.toNat <;> simp [hlast, hfsm]

/-- A body byte that overruns and drops its frame (41_reassembly_fsm.md R112). -/
theorem ingNext_bodyDropped {c : Config} {s : State} (b : Byte) (he : ingEnabled s = true)
    (hfsm : s.fsm = .capturingBody) (hd : s.discard = false) (hcnt : s.cnt.toNat + 2 ≤ s.len.toNat)
    (hfull : bytesAvailable c s = c.capacity - 1) :
    ingNext c b s = { s with
      wr := s.fs, ovr := true, fi := true
      cnt := s.cnt + 1
      fsm := if s.cnt.toNat + 2 = s.len.toNat then .awaitingLength else .capturingBody
      discard := decide (s.cnt.toNat + 2 < s.len.toNat) } := by
  rw [ingNext_of_capturingBody b he hfsm hd, ingBody_of_full b hfull, not_bodyComplete_countBodyByte hcnt,
    bodyComplete_countBodyByte hcnt]
  simp [hfsm]

/-- A body byte of a dropped frame (41_reassembly_fsm.md R113). -/
theorem ingNext_byteDiscarded {c : Config} {s : State} (b : Byte) (he : ingEnabled s = true)
    (hfsm : s.fsm = .capturingBody) (hd : s.discard = true) (hcnt : s.cnt.toNat + 2 ≤ s.len.toNat) :
    ingNext c b s = { s with
      cnt := s.cnt + 1
      fsm := if s.cnt.toNat + 2 = s.len.toNat then .awaitingLength else .capturingBody
      discard := decide (s.cnt.toNat + 2 < s.len.toNat) } := by
  rw [ingNext_of_discarding b he hfsm hd, ingDiscard_eq b hd, not_bodyComplete_countBodyByte hcnt,
    bodyComplete_countBodyByte hcnt]
  simp [hfsm]

end Sys2Proof.Machine
end

section
/-! SUPPORT. The state after the front part of a frame, stored or dropped, byte by byte
(41_reassembly_fsm.md R117, R118). -/

namespace Sys2Proof

open Sys2Proof.Machine

theorem feed_concat (c : Config) (bs : List Byte) (b : Byte) (s : State) :
    feed c (bs ++ [b]) s = ingNext c b (feed c bs s) := by
  simp [feed]

/-- The offsets beyond the unread bytes name the cells from `wr` on. -/
theorem unreadIndex_available_add {c : Config} {s : State} (hwr : s.wr < c.capacity)
    (hrd : s.rd < c.capacity) (k : Nat) :
    unreadIndex c s (bytesAvailable c s + k) = (s.wr + k) % c.capacity := by
  rw [← unreadIndex_available hwr hrd, unreadIndex, unreadIndex, Nat.mod_add_mod, Nat.add_assoc]

theorem getElem?_unreadCells {c : Config} {s : State} {k : Nat} (hk : k < bytesAvailable c s) :
    (unreadCells c s)[k]? = some (Memory.read s.ring (unreadIndex c s k)) := by
  simp [unreadCells, hk]

/-- Where more unread bytes are added behind, the earlier ones are as they were. -/
theorem read_of_unreadCells_append {c : Config} {s t : State} {cells : List (Option Byte)}
    (h : unreadCells c t = unreadCells c s ++ cells) {k : Nat} (hk : k < bytesAvailable c s) :
    Memory.read t.ring (unreadIndex c t k) = Memory.read s.ring (unreadIndex c s k) := by
  have hlen := congrArg List.length h
  rw [List.length_append, length_unreadCells, length_unreadCells] at hlen
  have hget : (unreadCells c t)[k]? = (unreadCells c s)[k]? := by
    rw [h, List.getElem?_append_left (by rwa [length_unreadCells])]
  rw [getElem?_unreadCells hk, getElem?_unreadCells (by omega)] at hget
  exact Option.some.inj hget

/-- The FSM's registers in `t`, where `n` bytes of a frame with length byte `l` have been taken since `s`,
the length byte the first of them (10_state.md R42 item 4). -/
structure FrontTaken (s : State) (l : Byte) (n : Nat) (t : State) : Prop where
  enabled : ingEnabled t = true
  fsm : t.fsm = if l.toNat ≤ n then .awaitingLength else .capturingBody
  len : t.len = l
  cnt : t.cnt.toNat + 1 = n
  rd : t.rd = s.rd

/-- All the bytes taken, `front`, are stored behind the bytes that were unread in `s`. -/
structure FrontStored (c : Config) (s : State) (l : Byte) (front : List Byte) (t : State) : Prop
    extends FrontTaken s l front.length t where
  wr_lt : t.wr < c.capacity
  fs : t.fs = s.wr
  discard : t.discard = false
  ready : t.ready = if l.toNat ≤ front.length then true else s.ready
  ovr : t.ovr = s.ovr
  fi : t.fi = s.fi
  cells : unreadCells c t = unreadCells c s ++ front.map some

/-- The frame has overrun: none of its bytes is stored, and those that follow are discarded. -/
structure FrontDropped (c : Config) (s : State) (l : Byte) (n : Nat) (t : State) : Prop
    extends FrontTaken s l n t where
  wr : t.wr = s.wr
  discard : t.discard = decide (n < l.toNat)
  ready : t.ready = s.ready
  ovr : t.ovr = true
  fi : t.fi = true
  cells : unreadCells c t = unreadCells c s

section
variable {c : Config} {s t t' : State} {l : Byte} {n : Nat} {front : List Byte}

theorem FrontTaken.capturing (h : FrontTaken s l n t) (hn : n < l.toNat) :
    t.fsm = .capturingBody ∧ t.cnt.toNat + 2 ≤ t.len.toNat := by
  have hcnt := h.cnt
  exact ⟨h.fsm.trans (if_neg (Nat.not_le.2 hn)), by rw [h.len]; omega⟩

/-- The completion test of the body byte that follows says whether it is the frame's last. -/
theorem FrontTaken.isLast_iff (h : FrontTaken s l n t) (hn : n < l.toNat) :
    t.cnt.toNat + 2 = t.len.toNat ↔ l.toNat ≤ n + 1 := by
  have hcnt := h.cnt
  rw [h.len]
  omega

theorem FrontTaken.isNotLast_iff (h : FrontTaken s l n t) :
    t.cnt.toNat + 2 < t.len.toNat ↔ n + 1 < l.toNat := by
  rw [h.len, ← h.cnt]

/-- One more body byte, stored or not: the counter counts it, and the frame's last one ends the capture. -/
theorem FrontTaken.next (h : FrontTaken s l n t) (hn : n < l.toNat) (he : ingEnabled t' = ingEnabled t)
    (hfsm : t'.fsm = if t.cnt.toNat + 2 = t.len.toNat then .awaitingLength else .capturingBody)
    (hlen : t'.len = t.len) (hcnt : t'.cnt = t.cnt + 1) (hrd : t'.rd = t.rd) :
    FrontTaken s l (n + 1) t' where
  enabled := he.trans h.enabled
  fsm := by simpa [h.isLast_iff hn] using hfsm
  len := hlen.trans h.len
  cnt := by
    have hl := l.isLt
    have hn' := h.cnt
    rw [hcnt, BitVec.toNat_add, Nat.mod_eq_of_lt (by simp; omega)]
    simp [hn']
  rd := hrd.trans h.rd

theorem FrontStored.bytesAvailable_eq (h : FrontStored c s l front t) :
    bytesAvailable c t = bytesAvailable c s + front.length := by
  rw [← length_unreadCells, h.cells, List.length_append, List.length_map, length_unreadCells]

/-- The length byte is stored. -/
theorem frontStored_length (hwr : s.wr < c.capacity) (hrd : s.rd < c.capacity)
    (he : ingEnabled s = true) (hfsm : s.fsm = .awaitingLength)
    (hroom : bytesAvailable c s ≠ c.capacity - 1) : FrontStored c s l [l] (ingNext c l s) := by
  rw [ingNext_lengthStored l he hfsm hroom]
  exact {
    enabled := he
    fsm := rfl
    len := rfl
    cnt := rfl
    rd := rfl
    wr_lt := Nat.mod_lt _ (Nat.zero_lt_of_lt hwr)
    fs := rfl
    discard := rfl
    ready := rfl
    ovr := rfl
    fi := rfl
    cells := unreadCells_push l hwr hrd hroom }

/-- A body byte is stored behind the stored front part of its frame. -/
theorem FrontStored.push (h : FrontStored c s l front t) (hrd : s.rd < c.capacity)
    (hn : front.length < l.toNat) (hroom : bytesAvailable c t ≠ c.capacity - 1) (b : Byte) :
    FrontStored c s l (front ++ [b]) (ingNext c b t) := by
  obtain ⟨hfsm, hcnt⟩ := h.capturing hn
  have hlast := h.isLast_iff hn
  have hcells := unreadCells_push b h.wr_lt (h.rd ▸ hrd) hroom
  rw [ingNext_bodyStored b h.enabled hfsm h.discard hcnt hroom]
  exact {
    toFrontTaken := by
      rw [List.length_append]
      exact h.next hn rfl rfl rfl rfl rfl
    wr_lt := Nat.mod_lt _ (Nat.zero_lt_of_lt h.wr_lt)
    fs := h.fs
    discard := h.discard
    ready := by simp [hlast, h.ready, Nat.not_le.2 hn]
    ovr := h.ovr
    fi := h.fi
    cells := hcells.trans (by simp [h.cells]) }

/-- The length byte overruns. -/
theorem frontDropped_length (he : ingEnabled s = true) (hfsm : s.fsm = .awaitingLength)
    (hfull : bytesAvailable c s = c.capacity - 1) : FrontDropped c s l 1 (ingNext c l s) := by
  rw [ingNext_lengthDropped l he hfsm hfull]
  exact {
    enabled := he
    fsm := rfl
    len := rfl
    cnt := rfl
    rd := rfl
    wr := rfl
    discard := rfl
    ready := rfl
    ovr := rfl
    fi := rfl
    cells := rfl }

/-- A body byte overruns, and the rollback takes the stored front part of its frame away. -/
theorem FrontStored.drop (h : FrontStored c s l front t) (hwr : s.wr < c.capacity)
    (hrd : s.rd < c.capacity) (hn : front.length < l.toNat)
    (hfull : bytesAvailable c t = c.capacity - 1) (b : Byte) :
    FrontDropped c s l (front.length + 1) (ingNext c b t) := by
  obtain ⟨hfsm, hcnt⟩ := h.capturing hn
  have hstart : t.fs = unreadIndex c t (bytesAvailable c s) := by
    rw [unreadIndex, h.rd, h.fs]
    exact (unreadIndex_available hwr hrd).symm
  have hcells : unreadCells c (rollback t) = unreadCells c s := by
    rw [unreadCells_rollback (h.fs ▸ hwr) (h.rd ▸ hrd) h.wr_lt (h.bytesAvailable_eq ▸ Nat.le_add_right ..)
      hstart, h.cells, List.take_left' (length_unreadCells ..)]
  rw [ingNext_bodyDropped b h.enabled hfsm h.discard hcnt hfull]
  exact {
    toFrontTaken := h.next hn rfl rfl rfl rfl rfl
    wr := h.fs
    discard := decide_eq_decide.2 h.isNotLast_iff
    ready := h.ready.trans (if_neg (Nat.not_le.2 hn))
    ovr := rfl
    fi := rfl
    cells := hcells }

/-- A body byte of a dropped frame is discarded. -/
theorem FrontDropped.discardByte (h : FrontDropped c s l n t) (hn : n < l.toNat) (b : Byte) :
    FrontDropped c s l (n + 1) (ingNext c b t) := by
  obtain ⟨hfsm, hcnt⟩ := h.capturing hn
  rw [ingNext_byteDiscarded b h.enabled hfsm (h.discard.trans (decide_eq_true hn)) hcnt]
  exact {
    toFrontTaken := h.next hn rfl rfl rfl rfl rfl
    wr := h.wr
    discard := decide_eq_decide.2 h.isNotLast_iff
    ready := h.ready
    ovr := h.ovr
    fi := h.fi
    cells := h.cells }

/-- A front part of a frame for which there is room is stored (41_reassembly_fsm.md R117). -/
theorem frontStored_feed (hwr : s.wr < c.capacity) (hrd : s.rd < c.capacity)
    (he : ingEnabled s = true) (hfsm : s.fsm = .awaitingLength) (body : List Byte)
    (hlen : body.length + 1 ≤ max l.toNat 1)
    (hroom : bytesAvailable c s + (body.length + 1) ≤ c.capacity - 1) :
    FrontStored c s l (l :: body) (feed c (l :: body) s) := by
  induction body using List.reverseRecOn with
  | nil => exact frontStored_length hwr hrd he hfsm (Nat.ne_of_lt hroom)
  | append_singleton body b ih =>
    simp only [List.length_append, List.length_singleton] at hlen hroom
    have h := ih (by omega) (by omega)
    have hav := h.bytesAvailable_eq
    rw [List.length_cons] at hav
    rw [← List.cons_append, feed_concat]
    exact h.push hrd (by simp; omega) (by omega) b

/-- A front part of a frame for which there is no room is dropped (41_reassembly_fsm.md R118). -/
theorem frontDropped_feed (hwr : s.wr < c.capacity) (hrd : s.rd < c.capacity)
    (he : ingEnabled s = true) (hfsm : s.fsm = .awaitingLength) (body : List Byte)
    (hlen : body.length + 1 ≤ max l.toNat 1)
    (hover : c.capacity - 1 < bytesAvailable c s + (body.length + 1)) :
    FrontDropped c s l (body.length + 1) (feed c (l :: body) s) := by
  have hlt := bytesAvailable_lt (s := s) hwr
  induction body using List.reverseRecOn with
  | nil => exact frontDropped_length he hfsm (Nat.le_antisymm (by omega) (Nat.le_of_lt_succ hover))
  | append_singleton body b ih =>
    rw [List.length_append, List.length_singleton] at hlen hover ⊢
    rw [← List.cons_append, feed_concat]
    by_cases hroom : bytesAvailable c s + (body.length + 1) ≤ c.capacity - 1
    · -- the part before this byte just fits
      have h := frontStored_feed (l := l) hwr hrd he hfsm body (by omega) hroom
      have hav := h.bytesAvailable_eq
      rw [List.length_cons] at hav
      exact h.drop hwr hrd (by simp; omega) (by omega) b
    · -- it has overrun before
      exact (ih (by omega) (by omega)).discardByte (by omega) b

/-- Where the bytes of a stored front part lie. -/
theorem FrontStored.read (h : FrontStored c s l front t) (hwr : s.wr < c.capacity)
    (hrd : s.rd < c.capacity) {k : Nat} (hk : k < front.length) :
    Memory.read t.ring ((t.fs + k) % c.capacity) = some front[k] := by
  have hav := h.bytesAvailable_eq
  have hindex : unreadIndex c t (bytesAvailable c s + k) = (t.fs + k) % c.capacity := by
    rw [unreadIndex, h.rd, h.fs]
    exact unreadIndex_available_add hwr hrd k
  have hget := getElem?_unreadCells (c := c) (s := t) (k := bytesAvailable c s + k) (by omega)
  rw [hindex, h.cells, List.getElem?_append_right (by rw [length_unreadCells]; omega),
    length_unreadCells] at hget
  simpa [hk, eq_comm] using hget

/-- `wr` has moved over the bytes that are stored. -/
theorem FrontStored.wr_eq (h : FrontStored c s l front t) (hwr : s.wr < c.capacity)
    (hrd : s.rd < c.capacity) : t.wr = (s.wr + front.length) % c.capacity := by
  rw [← unreadIndex_available_add hwr hrd, ← h.bytesAvailable_eq,
    ← unreadIndex_available h.wr_lt (h.rd ▸ hrd), unreadIndex, unreadIndex, h.rd]

end

end Sys2Proof
end

section
/-! SUPPORT. The statements of 41_reassembly_fsm.md's family, settled. -/

namespace Sys2Proof.Proofs

open Sys2Proof.Machine

/-- Settles O23, by induction over the frame's bytes: every front part is stored behind the unread bytes. -/
theorem frameIsStoredWhole : Obligations.FrameIsStoredWhole := by
  intro c l body s _ hwr hrd he hfsm hl hlen hroom
  refine ⟨fun k hk0 hkl => ?_, ?_⟩
  · obtain ⟨k, rfl⟩ := Nat.exists_eq_add_one_of_ne_zero (Nat.ne_of_gt hk0)
    have hfront : (body.take k).length = k := by rw [List.length_take]; omega
    have h := frontStored_feed (l := l) hwr hrd he hfsm (body.take k) (by omega) (by omega)
    refine h.fsm.trans (if_neg ?_)
    rw [List.length_cons]
    omega
  · have h := frontStored_feed (l := l) hwr hrd he hfsm body (by omega) (by omega)
    have hwhole : (l :: body).length = l.toNat := hlen
    have hcomplete : l.toNat ≤ (l :: body).length := Nat.le_of_eq hlen.symm
    exact ⟨h.fsm.trans (if_pos hcomplete), h.discard, h.ready.trans (if_pos hcomplete), h.fs, h.ovr, h.fi,
      h.rd, hwhole ▸ h.wr_eq hwr hrd, hwhole ▸ h.bytesAvailable_eq, fun _ hk => h.read hwr hrd hk,
      fun _ hk => read_of_unreadCells_append h.cells hk⟩

/-- Settles O24, by induction over the frame's bytes: once one has overrun, the ring is as before the frame. -/
theorem frameWithoutRoomIsDropped : Obligations.FrameWithoutRoomIsDropped := by
  intro c l body s _ hwr hrd he hfsm hlen hover
  have h := frontDropped_feed (l := l) hwr hrd he hfsm body (by omega) (by omega)
  have hcomplete : l.toNat ≤ body.length + 1 := by omega
  exact ⟨h.fsm.trans (if_pos hcomplete), h.discard.trans (decide_eq_false (Nat.not_lt.2 hcomplete)),
    h.ready, h.ovr, h.fi, h.wr, h.rd,
    fun _ hk => read_of_unreadCells_append (h.cells.trans (List.append_nil _).symm) hk⟩

/-- Settles O18, from the two outcomes of a length byte. -/
theorem ingLengthByte : Obligations.IngLengthByte := fun b _ he hfsm =>
  ⟨fun hroom => congrArg _ (ingNext_lengthStored b he hfsm hroom),
    fun hfull => congrArg _ (ingNext_lengthDropped b he hfsm hfull)⟩

/-- Settles O19, from the two outcomes of a body byte. -/
theorem ingBodyByte : Obligations.IngBodyByte := fun b _ he hfsm hd hcnt =>
  ⟨fun hroom => congrArg _ (ingNext_bodyStored b he hfsm hd hcnt hroom),
    fun hfull => congrArg _ (ingNext_bodyDropped b he hfsm hd hcnt hfull)⟩

/-- Settles O20, from the one outcome of a discarded byte. -/
theorem ingDiscardedByte : Obligations.IngDiscardedByte := fun b _ he hfsm hd hcnt =>
  congrArg _ (ingNext_byteDiscarded b he hfsm hd hcnt)

end Sys2Proof.Proofs
end

section
/-! SUPPORT. The cursors' arithmetic mod N without `mod`, and what each ring operation answers in each of its
cases (42_ring_buffer.md R140 to R146). -/

namespace Sys2Proof

open Sys2Proof.Machine

/-- The write cursor's next value, with the wrap as a case (42_ring_buffer.md R140). -/
theorem add_one_mod_eq_ite {i n : Nat} (h : i < n) : (i + 1) % n = if i = n - 1 then 0 else i + 1 := by
  split
  · next hlast => rw [hlast, Nat.sub_add_cancel (by omega), Nat.mod_self]
  · next hinner => exact Nat.mod_eq_of_lt (by omega)

/-- An unread byte's index, with the wrap as a case (42_ring_buffer.md R142). -/
theorem unreadIndex_eq_ite {c : Config} {s : State} {k : Nat} (hrd : s.rd < c.capacity)
    (hk : k < c.capacity) :
    unreadIndex c s k = if s.rd + k < c.capacity then s.rd + k else s.rd + k - c.capacity := by
  unfold unreadIndex
  split
  · next hlt => exact Nat.mod_eq_of_lt hlt
  · next hwrap => rw [Nat.mod_eq_sub_mod (by omega), Nat.mod_eq_of_lt (by omega)]

/-- The occupancy as an integer, in its two cases (42_ring_buffer.md R141). -/
theorem bytesAvailable_cast {c : Config} {s : State} (hrd : s.rd < c.capacity) :
    (bytesAvailable c s : Int) = s.wr - s.rd + if s.wr < s.rd then (c.capacity : Int) else 0 := by
  unfold bytesAvailable
  split <;> omega

theorem bytesAvailable_eq_emod {c : Config} {s : State} (hwr : s.wr < c.capacity)
    (hrd : s.rd < c.capacity) : (bytesAvailable c s : Int) = ((s.wr : Int) - s.rd) % c.capacity := by
  have hlt := bytesAvailable_lt (s := s) hwr
  have hcast := bytesAvailable_cast (s := s) hrd
  rw [← Int.emod_eq_of_lt (Int.natCast_nonneg _) (Int.ofNat_lt.2 hlt), hcast]
  split
  · rw [Int.add_emod_right]
  · rw [Int.add_zero]

theorem bytesAvailable_push {c : Config} {s : State} (b : Byte) (hwr : s.wr < c.capacity)
    (hrd : s.rd < c.capacity) (hroom : bytesAvailable c s ≠ c.capacity - 1) :
    bytesAvailable c { s with ring := Memory.write s.ring s.wr b, wr := (s.wr + 1) % c.capacity } =
      bytesAvailable c s + 1 := by
  have hlen := congrArg List.length (unreadCells_push b hwr hrd hroom)
  rwa [List.length_append, length_unreadCells, length_unreadCells] at hlen

theorem bytesAvailable_advance {c : Config} {s : State} {n : Nat} (hwr : s.wr < c.capacity)
    (hrd : s.rd < c.capacity) (hn : n ≤ bytesAvailable c s) :
    bytesAvailable c { s with rd := unreadIndex c s n } = bytesAvailable c s - n := by
  have hlen := congrArg List.length (unreadCells_advance hrd hwr hn)
  rwa [List.length_drop, length_unreadCells, length_unreadCells] at hlen

theorem peekAt_of_beyond {c : Config} {k : Nat} {s : State} (h : bytesAvailable c s ≤ k) :
    peekAt c k s = .error (.peekBeyondUnread k) := if_neg (Nat.not_lt.2 h)

theorem advanceRead_of_beyond {c : Config} {n : Nat} {s : State} (h : bytesAvailable c s < n) :
    advanceRead c n s = .error (.advanceBeyondUnread n) := if_neg (Nat.not_le.2 h)

/-- While a frame is being stored, rollback drops its part from the unread bytes and nothing else
(42_ring_buffer.md R144). -/
theorem Framed.cells_rollback {c : Config} {s : State} {frames : List (List Byte)}
    {tail : List Byte} (h : Framed c s frames tail) (hs : Consistent c s)
    (hfsm : s.fsm = .capturingBody) (hdiscard : s.discard = false) :
    unreadCells c (rollback s) = frames.flatten.map some := by
  obtain ⟨-, -, hfs⟩ := h.storing hfsm hdiscard
  have hle : frames.flatten.length ≤ bytesAvailable c s := h.bytesAvailable_eq ▸ Nat.le_add_right ..
  rw [unreadCells_rollback hs.fs_lt hs.rd_lt hs.wr_lt hle hfs, h.cells, List.map_append,
    List.take_left' (List.length_map _)]

end Sys2Proof
end

section
/-! SUPPORT. The statements of 42_ring_buffer.md's family, settled. -/

namespace Sys2Proof.Proofs

open Sys2Proof.Machine

/-- Settles O25, from the two outcomes of a push. -/
theorem pushStoresOrRefuses : Obligations.PushStoresOrRefuses := by
  intro c b s _ hwr hrd
  refine ⟨push_of_full b, fun hroom => ⟨_, push_of_room b hroom, ?_, bytesAvailable_push b hwr hrd hroom,
    fun a => Memory.read_write s.ring s.wr a b⟩⟩
  rw [add_one_mod_eq_ite hwr]

/-- Settles O26: the case `wr < rd` adds one N, which the remainder does not see. -/
theorem availableIsDifferenceModN : Obligations.AvailableIsDifferenceModN := fun _ _ hwr hrd =>
  ⟨bytesAvailable_eq_emod hwr hrd, Nat.le_sub_one_of_lt (bytesAvailable_lt hwr)⟩

/-- Settles O27, from what a peek that answers has read. -/
theorem peekReadsTheUnreadByte : Obligations.PeekReadsTheUnreadByte := fun _ _ _ hrd hk =>
  ⟨fun _ hunread hcell => peekAt_ok.2 ⟨hunread, unreadIndex_eq_ite hrd hk ▸ hcell⟩,
    peekAt_of_beyond⟩

/-- Settles O28, from the unread bytes that are left after an advance. -/
theorem advanceReadConsumes : Obligations.AdvanceReadConsumes := by
  intro c n s hwr hrd
  refine ⟨fun hn => ⟨_, advanceRead_ok.2 ⟨hn, rfl⟩, rfl, ?_⟩, advanceRead_of_beyond⟩
  rw [bytesAvailable_advance hwr hrd hn, Nat.sub_add_cancel hn]

/-- Settles O29: `fs` lies just behind the complete frames. -/
theorem rollbackLeavesTheCompleteFrames : Obligations.RollbackLeavesTheCompleteFrames := by
  intro c s frames tail hs hf hfsm hdiscard
  have hcells := hf.cells_rollback hs hfsm hdiscard
  exact ⟨rfl, by rw [← length_unreadCells, hcells, List.length_map], hcells⟩

end Sys2Proof.Proofs
end

section
/-! SUPPORT. DRAIN's early stops, emit_one's record and clock sample, and HDR where it is picked
(43_frame_emitter.md R164 to R169, R180). -/

namespace Sys2Proof.Machine

/-! DRAIN from what its loop answers (43_frame_emitter.md R160, R168, R169). -/

theorem sinkWrite_nil (c : Config) (s : State) : sinkWrite c [] s = s := rfl

theorem drainWith_of_loop {c : Config} {s t : State} {bs : List Byte} (he : drainEnabled s = true)
    (hloop : drainLoop c (bytesAvailable c s) [] s = .ok (bs, t)) :
    drainWith c s = .next (sinkWrite c bs { t with ready := false }) := by
  simp [drainWith, he, hloop]

theorem headInProgress_iff (s : State) :
    headInProgress s = true ↔ s.fsm = .capturingBody ∧ s.discard = false ∧ s.rd = s.fs := by
  simp [headInProgress, and_assoc]

/-- DRAIN's loop stops at a head frame that is not all there (43_frame_emitter.md R168). -/
theorem drainLoop_of_shortHead {c : Config} {s : State} {l : Byte} {fuel : Nat} (bs : List Byte)
    (hfuel : 0 < fuel) (hl : peekAt c 0 s = .ok l) (hshort : bytesAvailable c s < footprint l) :
    drainLoop c fuel bs s = .ok (bs, if headInProgress s then s else raiseInconsistency s) := by
  obtain ⟨fuel, rfl⟩ := Nat.exists_eq_add_one_of_ne_zero (Nat.ne_of_gt hfuel)
  have hne : bytesAvailable c s ≠ 0 := Nat.ne_of_gt (peekAt_ok.1 hl).1
  simp only [drainLoop, hne, hl, hshort, if_false, if_true]

/-! emit_one. -/

theorem recordHeader_eq (c : Config) (e : Nat) (l : Byte) :
    recordHeader c e l = le32 (BitVec.ofNat 32 (e / 1000000)) ++ le32 (BitVec.ofNat 32 (e % 1000000))
      ++ le32 (BitVec.ofNat 32 (includedLength c l)) ++ le32 (BitVec.ofNat 32 l.toNat) := by
  rw [recordHeader, seconds, microseconds, originalLength, BitVec.ofNat_toNat]

/-- emit_one draws one clock sample and leaves `start_epoch` as it is (43_frame_emitter.md R165). -/
theorem emitOne_clock {c : Config} {s t : State} {r : List Byte} (h : emitOne c s = .ok (r, t)) :
    t.clockDraws = s.clockDraws + 1 ∧ t.lastNow = clockSample c s.lastNow s.clockDraws ∧
      t.startEpoch = s.startEpoch := by
  obtain ⟨l, payload, -, -, -, -, rfl⟩ := emitOne_ok.1 h
  exact ⟨rfl, rfl, rfl⟩

theorem elapsed_mono (epoch : Micros) {t u : Micros} (h : t ≤ u) : elapsed epoch t ≤ elapsed epoch u :=
  Nat.sub_le_sub_right h _

/-! The choice of the next step where HDR is picked, and where no input waits (log 4, log 5). -/

theorem pick_of_header_front {c : Config} {s : State} {rest : List Input}
    (hin : s.inputs = .header :: rest) (he : headerEnabled s = true) :
    pick c s = .header { s with inputs := rest } := by
  have hsel : selectable s .header = true := he
  have hfront : frontWaits s = false := by simp [frontWaits, hin, hsel]
  have hfirst : selectFirst s s.inputs = some (.header, rest) := by simp [hin, selectFirst, hsel]
  simp [pick, hfront, hfirst]

theorem pick_of_no_inputs {c : Config} {s : State} (hin : s.inputs = []) :
    pick c s = if headerEnabled s then .header s
      else if drainEnabled s then .run .drain (countTurn .drain s) else .wait := by
  simp [pick, frontWaits, hin, selectFirst]

/-- DRAIN needs `hdr_done`, which HDR needs clear (43_frame_emitter.md R160, R180). -/
theorem headerEnabled_eq_false_of_drainEnabled {s : State} (h : drainEnabled s = true) :
    headerEnabled s = false := by
  simp only [drainEnabled, Bool.and_eq_true] at h
  obtain ⟨⟨-, hdone⟩, -⟩ := h
  simp [headerEnabled, hdone]

theorem length_globalHeader : globalHeader.length = 24 := rfl

/-- HDR with a sink that takes `k` of the header's 24 bytes (43_frame_emitter.md R180, 60_exceptions.md
R223). -/
theorem headerNext_eq {c : Config} {s : State} (he : headerEnabled s = true) :
    ∃ k, k ≤ 24 ∧ headerNext c s = { s with
      startEpoch := clockSample c 0 s.clockDraws, lastNow := clockSample c 0 s.clockDraws
      hdrDone := true
      clockDraws := s.clockDraws + 1, sinkDraws := s.sinkDraws + 1
      out := s.out ++ globalHeader.take k
      term := decide (k < 24)
      cause := if k < 24 then .sinkClosed else s.cause } := by
  have hterm : s.term = false := by
    simp only [headerEnabled, Bool.and_eq_true, Bool.not_eq_true'] at he
    exact he.2
  rcases headerNext_cases c s with ⟨hno, -⟩ | ⟨-, hn⟩
  · rw [he] at hno
    cases hno
  · rw [hn]
    rcases sinkWrite_cases c globalHeader
        { drawClock c 0 s with startEpoch := clockSample c 0 s.clockDraws, hdrDone := true } with
      ⟨hnil, -⟩ | ⟨-, -, hw⟩ | ⟨-, hshort, hw⟩
    · exact absurd hnil (List.cons_ne_nil _ _)
    · refine ⟨24, Nat.le_refl _, hw.trans ?_⟩
      simp [drawClock, hterm, length_globalHeader]
    · rw [length_globalHeader] at hshort
      refine ⟨c.sink s.sinkDraws, Nat.le_of_lt hshort, hw.trans ?_⟩
      simp [drawClock, show c.sink s.sinkDraws < 24 from hshort]

end Sys2Proof.Machine
end

section
/-! SUPPORT. Whole frames fed one after another into a ring with room for all of them
(41_reassembly_fsm.md R117, 43_frame_emitter.md R171). -/

namespace Sys2Proof

open Sys2Proof.Machine

theorem feed_append (c : Config) (xs ys : List Byte) (s : State) :
    feed c (xs ++ ys) s = feed c ys (feed c xs s) := List.foldl_append

/-- What every ING keeps, a run of INGs keeps. -/
theorem feed_keeps {c : Config} {P : State → Prop} (hing : ∀ b s, P s → P (ingNext c b s))
    {s : State} (hs : P s) (bs : List Byte) : P (feed c bs s) := by
  induction bs generalizing s with
  | nil => exact hs
  | cons b bs ih => exact ih (hing b s hs)

theorem Consistent.feed {c : Config} {s : State} (h : Consistent c s) (bs : List Byte) :
    Consistent c (feed c bs s) :=
  feed_keeps (fun b _ hs => hs.ingNext b) h bs

/-- A run of INGs draws no clock sample and leaves the epoch and the last sample (10_state.md R40). -/
theorem feed_clock (c : Config) (bs : List Byte) (s : State) :
    (feed c bs s).startEpoch = s.startEpoch ∧ (feed c bs s).lastNow = s.lastNow ∧
      (feed c bs s).clockDraws = s.clockDraws :=
  feed_keeps (P := fun t => t.startEpoch = s.startEpoch ∧ t.lastNow = s.lastNow ∧
    t.clockDraws = s.clockDraws) (fun b t ht => by simpa using ht) ⟨rfl, rfl, rfl⟩ bs

/-- In `t` the frames fed since `s` are all stored behind the bytes that were unread, and the FSM awaits the
next frame. -/
structure FramesStored (c : Config) (s : State) (frames : List (List Byte)) (t : State) : Prop where
  enabled : ingEnabled t = true
  fsm : t.fsm = .awaitingLength
  rd : t.rd = s.rd
  wr_lt : t.wr < c.capacity
  ovr : t.ovr = s.ovr
  ready : frames ≠ [] → t.ready = true
  cells : unreadCells c t = unreadCells c s ++ frames.flatten.map some

theorem FramesStored.bytesAvailable_eq {c : Config} {s t : State} {frames : List (List Byte)}
    (h : FramesStored c s frames t) :
    bytesAvailable c t = bytesAvailable c s + frames.flatten.length := by
  rw [← length_unreadCells, h.cells, List.length_append, List.length_map, length_unreadCells]

/-- One more whole frame is stored behind the others. -/
theorem FramesStored.concat {c : Config} {s t : State} {frames : List (List Byte)} {f : List Byte}
    (h : FramesStored c s frames t) (hrd : s.rd < c.capacity) (hf : wholeFrame f = true)
    (hroom : bytesAvailable c s + (frames ++ [f]).flatten.length ≤ c.capacity - 1) :
    FramesStored c s (frames ++ [f]) (feed c f t) := by
  obtain ⟨l, body, rfl, hbody⟩ := wholeFrame_iff.1 hf
  have hav := h.bytesAvailable_eq
  rw [List.flatten_concat, List.length_append, List.length_cons] at hroom
  have hstored := frontStored_feed (l := l) h.wr_lt (h.rd ▸ hrd) h.enabled h.fsm body
    (Nat.le_of_eq hbody) (by omega)
  have hwhole : l.toNat ≤ (l :: body).length := (Nat.le_max_left ..).trans_eq hbody.symm
  exact {
    enabled := hstored.enabled
    fsm := hstored.fsm.trans (if_pos hwhole)
    rd := hstored.rd.trans h.rd
    wr_lt := hstored.wr_lt
    ovr := hstored.ovr.trans h.ovr
    ready := fun _ => hstored.ready.trans (if_pos hwhole)
    cells := by rw [hstored.cells, h.cells, List.flatten_concat, List.map_append, List.append_assoc] }

/-- Whole frames for which there is room together are all stored, in order (41_reassembly_fsm.md R117). -/
theorem framesStored_feed {c : Config} {s : State} (hwr : s.wr < c.capacity) (hrd : s.rd < c.capacity)
    (he : ingEnabled s = true) (hfsm : s.fsm = .awaitingLength) (frames : List (List Byte))
    (hwhole : ∀ f ∈ frames, wholeFrame f = true)
    (hroom : bytesAvailable c s + frames.flatten.length ≤ c.capacity - 1) :
    FramesStored c s frames (feed c frames.flatten s) := by
  induction frames using List.reverseRecOn with
  | nil => exact ⟨he, hfsm, rfl, hwr, rfl, fun hne => absurd rfl hne, (List.append_nil _).symm⟩
  | append_singleton frames f ih =>
    have hfront : bytesAvailable c s + frames.flatten.length ≤ c.capacity - 1 := by
      rw [List.flatten_concat, List.length_append] at hroom
      omega
    have h := ih (fun g hg => hwhole g (List.mem_append_left _ hg)) hfront
    have hnext := h.concat hrd (hwhole f (by simp)) hroom
    rwa [List.flatten_concat, feed_append]

/-- Frames stored in an empty ring are all that is unread. -/
theorem FramesStored.framed {c : Config} {s t : State} {frames : List (List Byte)}
    (h : FramesStored c s frames t) (hempty : bytesAvailable c s = 0)
    (hwhole : ∀ f ∈ frames, wholeFrame f = true) : Framed c t frames [] where
  whole := hwhole
  cells := by
    have hnone : unreadCells c s = [] := List.length_eq_zero_iff.1 ((length_unreadCells c s).trans hempty)
    rw [h.cells, hnone, List.nil_append, List.append_nil]
  storing hcapturing := by simp [h.fsm] at hcapturing
  notStoring _ := rfl

theorem FramesStored.drainEnabled {c : Config} {s t : State} {frames : List (List Byte)}
    (h : FramesStored c s frames t) (hne : frames ≠ []) : drainEnabled t = true := by
  have hing := h.enabled
  simpa [Machine.drainEnabled, h.ready hne, ingEnabled] using hing

/-- A DRAIN that has consumed the frames leaves the frame in progress unread (43_frame_emitter.md R167). -/
theorem Framed.bytesAvailable_drained {c : Config} {s : State} {frames : List (List Byte)}
    {tail : List Byte} (h : Framed c s frames tail) (hwr : s.wr < c.capacity) (hrd : s.rd < c.capacity) :
    bytesAvailable c (drained c frames s) = tail.length := by
  have hav := h.bytesAvailable_eq
  have hadv := bytesAvailable_advance (n := frames.flatten.length) hwr hrd (by omega)
  exact hadv.trans (by omega)

end Sys2Proof
end

section
/-! SUPPORT. The statements of 43_frame_emitter.md's family, settled. -/

namespace Sys2Proof.Proofs

open Sys2Proof.Machine

/-- Settles O31, by the induction over the frames in `drainLoop_of_framed`. -/
theorem drainEmitsEveryCompleteFrame : Obligations.DrainEmitsEveryCompleteFrame :=
  fun _ _ _ hs hf he => drainWith_of_framed hs hf he

/-- Settles O56, by induction over the frames that are fed: they are then all that DRAIN finds unread. -/
theorem everyStoredFrameIsEmittedOnce : Obligations.EveryStoredFrameIsEmittedOnce := by
  intro c s frames _ hs he hfsm hempty hne hwhole hfit t
  have hstored : FramesStored c s frames t :=
    framesStored_feed hs.wr_lt hs.rd_lt he hfsm frames hwhole (by omega)
  have ht : Consistent c t := hs.feed frames.flatten
  have hframed := hstored.framed hempty hwhole
  obtain ⟨hepoch, hnow, hdraws⟩ := feed_clock c frames.flatten s
  refine ⟨hstored.ovr, ?_, hframed.bytesAvailable_drained ht.wr_lt ht.rd_lt⟩
  rw [drainWith_of_framed ht hframed (hstored.drainEnabled hne), hepoch, hnow, hdraws]

/-- Settles O33: the loop stops at the short head frame; from a consistent state it only meets one that is
in progress. -/
theorem drainWaitsForAShortHeadFrame : Obligations.DrainWaitsForAShortHeadFrame := by
  refine ⟨fun s l he hpos hcell hshort => ?_, fun s t hs h => ?_⟩
  · have hloop := drainLoop_of_shortHead [] hpos (peekAt_ok.2 ⟨hpos, hcell⟩) hshort
    refine (drainWith_of_loop he hloop).trans ?_
    rw [sinkWrite_nil]
    by_cases hhead : headInProgress s = true
    · rw [if_pos hhead, if_pos ((headInProgress_iff s).1 hhead)]
    · rw [if_neg hhead, if_neg (mt (headInProgress_iff s).2 hhead)]
      rfl
  · have h : drainWith Config.machine s = .next t := h
    obtain ⟨frames, tail, hf, -⟩ := hs.framed
    rcases drainWith_next h with ⟨-, rfl⟩ | ⟨he, -⟩
    · rfl
    · rw [drainWith_of_framed hs hf he] at h
      cases h
      exact sinkWrite_fi ..

/-- Settles O35, from what an emit_one that completes has read. -/
theorem emitOneEncodesTheHeadFrame : Obligations.EmitOneEncodesTheHeadFrame := by
  intro c s t r _ h
  obtain ⟨l, payload, hl, hpayload, -, rfl, rfl⟩ := emitOne_ok.1 h
  obtain ⟨hlen, hbytes⟩ := peekFrom_ok.1 hpayload
  refine ⟨l, payload, (peekAt_ok.1 hl).2, hlen, fun k hk => ?_, ?_, rfl⟩
  · rw [Nat.add_comm k 1]
    exact (peekAt_ok.1 (hbytes k hk)).2
  · rw [recordHeader_eq, hlen]
    rfl

/-- Settles O39: each sample's floor is the one before. -/
theorem timestampsDoNotDecrease : Obligations.TimestampsDoNotDecrease := by
  intro c s t u r1 r2 _ h1 h2
  obtain ⟨hdraws1, hnow1, -⟩ := emitOne_clock h1
  obtain ⟨hdraws2, hnow2, hepoch⟩ := emitOne_clock h2
  have hle1 : s.lastNow ≤ t.lastNow := hnow1 ▸ clockSample_ge ..
  have hle2 : t.lastNow ≤ u.lastNow := hnow2 ▸ clockSample_ge ..
  exact ⟨hdraws1, by rw [hdraws2, hdraws1], hnow1, hnow2, hle1, hle2, hepoch ▸ elapsed_mono _ hle2⟩

/-- Settles O42: HDR at the front is selectable, and the sink takes some of the 24 bytes. -/
theorem headerStepStartsTheSession : Obligations.HeaderStepStartsTheSession := by
  intro s rest he hin
  obtain ⟨k, hk, hnext⟩ := headerNext_eq (c := Config.machine) (s := { s with inputs := rest }) he
  refine ⟨_, k, hk, rfl, ?_⟩
  rw [step, pick_of_header_front hin he]
  exact congrArg _ hnext

/-- Settles O13, from the choice `pick` makes where no input waits. -/
theorem quietMachineMovesByItself : Obligations.QuietMachineMovesByItself := by
  intro s hin
  refine ⟨fun hh => ?_, fun hd => ?_, fun hh hd => ?_⟩
  · simp [step, pick_of_no_inputs hin, hh]
  · simp [step, pick_of_no_inputs hin, headerEnabled_eq_false_of_drainEnabled hd, hd]
  · simp [step, pick_of_no_inputs hin, hh, hd]

/-- Settles O32: the loop stops at once. -/
theorem drainOfAnEmptyRing : Obligations.DrainOfAnEmptyRing := fun _ he hempty =>
  drainWith_of_loop he (drainLoop_of_empty _ _ hempty)

/-- Settles O36, from included_length as `L - 1 - CW` over the naturals. -/
theorem includedLengthFormula : Obligations.IncludedLengthFormula := by
  intro c l
  rw [includedLength_eq]
  exact ⟨fun _ => rfl, fun _ => by omega⟩

/-- Settles O38: only `seconds` can pass its 32 bits. -/
theorem timestampFields : Obligations.TimestampFields := by
  intro epoch t hle
  refine ⟨Nat.sub_add_cancel hle, BitVec.toNat_ofNat _ _, ?_⟩
  rw [microseconds, BitVec.toNat_ofNat, elapsed]
  omega

end Sys2Proof.Proofs
end

section
/-! SUPPORT. The enabling conditions in the registers they test, and what ING leaves of them
(41_reassembly_fsm.md R110, 43_frame_emitter.md R160, R180). -/

namespace Sys2Proof.Machine

theorem drainEnabled_iff (s : State) :
    drainEnabled s = true ↔ s.ready = true ∧ s.hdrDone = true ∧ s.term = false := by
  simp [drainEnabled, and_assoc]

theorem ingEnabled_iff (s : State) : ingEnabled s = true ↔ s.hdrDone = true ∧ s.term = false := by
  simp [ingEnabled]

theorem headerEnabled_iff (s : State) : headerEnabled s = true ↔ s.hdrDone = false ∧ s.term = false := by
  simp [headerEnabled]

@[simp] theorem drainEnabled_withInputs (s : State) (inputs : List Input) :
    drainEnabled { s with inputs := inputs } = drainEnabled s := rfl

theorem ingEnabled_of_drainEnabled {s : State} (h : drainEnabled s = true) : ingEnabled s = true :=
  (ingEnabled_iff s).2 ((drainEnabled_iff s).1 h).2

/-- ING leaves an enabled DRAIN enabled (60_exceptions.md R237). -/
theorem ingNext_drainEnabled {s : State} (c : Config) (b : Byte) (h : drainEnabled s = true) :
    drainEnabled (ingNext c b s) = true := by
  obtain ⟨hready, hdone, hterm⟩ := (drainEnabled_iff s).1 h
  exact (drainEnabled_iff _).2 ⟨(ingNext_flags c b s).1 hready, by simpa using hdone, by simpa using hterm⟩

end Sys2Proof.Machine
end

section
/-! SUPPORT. The same input bytes after a DRAIN and without it (60_exceptions.md R237). -/

namespace Sys2Proof

open Sys2Proof.Machine

/-! What a DRAIN that consumes more frames emits (43_frame_emitter.md R170). -/

/-- The records of frames that follow one another, the clock going on from the first ones' last sample. -/
theorem recordsFor_append (c : Config) (epoch now : Micros) (n : Nat) (front frames : List (List Byte)) :
    recordsFor c epoch now n (front ++ frames) =
      ((recordsFor c epoch now n front).1 ++
          (recordsFor c epoch (recordsFor c epoch now n front).2 (n + front.length) frames).1,
        (recordsFor c epoch (recordsFor c epoch now n front).2 (n + front.length) frames).2) := by
  induction front generalizing now n with
  | nil => rfl
  | cons f front ih =>
    have hdraws : n + 1 + front.length = n + (front.length + 1) := by omega
    simp only [List.cons_append, recordsFor, ih, List.append_assoc, List.length_cons, hdraws]

/-- A write after which the session still lasts was taken whole (60_exceptions.md R223). -/
theorem sinkWrite_out_of_live {c : Config} {bs : List Byte} {s : State}
    (h : (sinkWrite c bs s).term = false) : (sinkWrite c bs s).out = s.out ++ bs := by
  rcases sinkWrite_cases c bs s with ⟨rfl, hw⟩ | ⟨-, -, hw⟩ | ⟨-, -, hw⟩ <;> rw [hw] at h ⊢
  · exact (List.append_nil _).symm
  · cases h

/-- A write to the sink reads and moves no unread byte. -/
@[simp] theorem unreadCells_sinkWrite (c : Config) (bs : List Byte) (s : State) :
    unreadCells c (sinkWrite c bs s) = unreadCells c s := by
  simp [unreadCells, bytesAvailable, unreadIndex]

/-! A run of INGs: what it leaves to DRAIN, and the overrun flag. -/

/-- A run of INGs writes no output (10_state.md R40). -/
theorem feed_out (c : Config) (bs : List Byte) (s : State) : (feed c bs s).out = s.out :=
  feed_keeps (P := fun t => t.out = s.out) (fun b t ht => (ingNext_out c b t).trans ht) rfl bs

theorem feed_drainEnabled {s : State} (c : Config) (bs : List Byte) (h : drainEnabled s = true) :
    drainEnabled (feed c bs s) = true :=
  feed_keeps (P := fun t => drainEnabled t = true) (fun b _ => ingNext_drainEnabled c b) h bs

/-- Where a run of INGs has not overrun, none of them has (10_state.md R33). -/
theorem ovr_of_feed_ovr {c : Config} {bs : List Byte} {s : State} (h : (feed c bs s).ovr = false) :
    s.ovr = false := by
  cases hs : s.ovr with
  | false => rfl
  | true =>
    have := feed_keeps (P := fun t => t.ovr = true) (fun b t ht => (ingNext_flags c b t).2.1 ht) hs bs
    rw [h] at this
    cases this

/-- `b` is as `a`, except that a DRAIN has consumed the bytes `front` in it, which `a` has still unread. -/
structure DrainedEarlier (c : Config) (front : List Byte) (a b : State) : Prop where
  enabled : ingEnabled b = ingEnabled a
  fsm : b.fsm = a.fsm
  len : b.len = a.len
  cnt : b.cnt = a.cnt
  wr : b.wr = a.wr
  fs : b.fs = a.fs
  discard : b.discard = a.discard
  rd : b.rd = (a.rd + front.length) % c.capacity
  cells : unreadCells c a = front.map some ++ unreadCells c b

section
variable {c : Config} {front : List Byte} {a b : State}

/-- The state that has drained has the more room. -/
theorem DrainedEarlier.room (h : DrainedEarlier c front a b) (hwr : a.wr < c.capacity)
    (hroom : bytesAvailable c a ≠ c.capacity - 1) : bytesAvailable c b ≠ c.capacity - 1 := by
  have hlt := bytesAvailable_lt (s := a) hwr
  have hlen := congrArg List.length h.cells
  rw [List.length_append, length_unreadCells, length_unreadCells] at hlen
  omega

/-- A byte that is stored is stored in both. -/
theorem DrainedEarlier.cells_push (h : DrainedEarlier c front a b) (ha : Consistent c a)
    (hb : Consistent c b) (hroom : bytesAvailable c a ≠ c.capacity - 1) (x : Byte) :
    unreadCells c { a with ring := Memory.write a.ring a.wr x, wr := (a.wr + 1) % c.capacity } =
      front.map some ++
        unreadCells c { b with ring := Memory.write b.ring b.wr x, wr := (b.wr + 1) % c.capacity } := by
  rw [unreadCells_push x ha.wr_lt ha.rd_lt hroom,
    unreadCells_push x hb.wr_lt hb.rd_lt (h.room ha.wr_lt hroom), h.cells, List.append_assoc]

/-- An ING that does not overrun does the same in both (41_reassembly_fsm.md R111 to R113). -/
theorem DrainedEarlier.ingNext (h : DrainedEarlier c front a b) (ha : Consistent c a)
    (hb : Consistent c b) (x : Byte) (hovr : (ingNext c x a).ovr = false) :
    DrainedEarlier c front (ingNext c x a) (ingNext c x b) := by
  rcases ingNext_outcomes c x a with ⟨he, hn⟩ | ⟨-, -, -, hn⟩ | ⟨he, hfsm, hroom, -⟩ |
    ⟨-, -, -, -, hn⟩ | ⟨he, hfsm, hd, hroom, -⟩ | ⟨he, hfsm, hd, -⟩
  · -- ING is not enabled
    have hnb : Machine.ingNext c x b = b := by simp [Machine.ingNext, h.enabled, he]
    rw [hn, hnb]
    exact h
  · rw [hn] at hovr; cases hovr
  · -- a length byte is stored
    rw [ingNext_lengthStored x he hfsm hroom,
      ingNext_lengthStored x (h.enabled.trans he) (h.fsm.trans hfsm) (h.room ha.wr_lt hroom)]
    exact { h with
      fsm := rfl, len := rfl, cnt := rfl, discard := rfl, fs := h.wr
      wr := by simp [h.wr]
      cells := h.cells_push ha hb hroom x }
  · rw [hn] at hovr; cases hovr
  · -- a body byte is stored
    have hcnt := (ha.capturing hfsm).2
    have hcntb := (hb.capturing (h.fsm.trans hfsm)).2
    rw [ingNext_bodyStored x he hfsm hd hcnt hroom,
      ingNext_bodyStored x (h.enabled.trans he) (h.fsm.trans hfsm) (h.discard.trans hd) hcntb
        (h.room ha.wr_lt hroom)]
    exact { h with
      fsm := by simp [h.cnt, h.len]
      cnt := by simp [h.cnt]
      wr := by simp [h.wr]
      cells := h.cells_push ha hb hroom x }
  · -- a body byte is discarded
    have hcnt := (ha.capturing hfsm).2
    have hcntb := (hb.capturing (h.fsm.trans hfsm)).2
    rw [ingNext_byteDiscarded x he hfsm hd hcnt,
      ingNext_byteDiscarded x (h.enabled.trans he) (h.fsm.trans hfsm) (h.discard.trans hd) hcntb]
    exact { h with
      fsm := by simp [h.cnt, h.len]
      cnt := by simp [h.cnt]
      discard := by simp [h.cnt, h.len] }

/-- A run of INGs that does not overrun does the same in both. -/
theorem DrainedEarlier.feed (h : DrainedEarlier c front a b) (ha : Consistent c a)
    (hb : Consistent c b) (bs : List Byte) (hovr : (feed c bs a).ovr = false) :
    DrainedEarlier c front (feed c bs a) (feed c bs b) := by
  induction bs generalizing a b with
  | nil => exact h
  | cons x bs ih =>
    have hfirst : (Machine.ingNext c x a).ovr = false := ovr_of_feed_ovr hovr
    exact ih (h.ingNext ha hb x hfirst) (ha.ingNext x) (hb.ingNext x) hovr

/-- What `a` has unread are the frames that `b` has drained and then what `b` has unread. -/
theorem DrainedEarlier.framed {drainedFrames frames : List (List Byte)} {tail : List Byte}
    (h : DrainedEarlier c drainedFrames.flatten a b) (hwhole : ∀ f ∈ drainedFrames, wholeFrame f = true)
    (hb : Framed c b frames tail) : Framed c a (drainedFrames ++ frames) tail where
  whole f hf := (List.mem_append.1 hf).elim (hwhole f) (hb.whole f)
  cells := by
    rw [h.cells, hb.cells, List.flatten_append, List.append_assoc, ← List.map_append]
  storing hfsm hdiscard := by
    obtain ⟨hlen, hhead, hfs⟩ := hb.storing (h.fsm.trans hfsm) (h.discard.trans hdiscard)
    refine ⟨h.cnt ▸ hlen, h.len ▸ hhead, ?_⟩
    rw [← h.fs, hfs, h.rd, Nat.mod_add_mod, List.flatten_append, List.length_append, Nat.add_assoc]
  notStoring hidle := hb.notStoring (by rwa [h.fsm, h.discard])

/-- A DRAIN that does not end the session leaves the state in which its frames are consumed. -/
theorem Framed.drainedEarlier {s : State} {frames : List (List Byte)} {tail bs : List Byte}
    (hf : Framed c s frames tail) (hs : Consistent c s) (hterm : s.term = false)
    (ht : (sinkWrite c bs (drained c frames s)).term = false) :
    DrainedEarlier c frames.flatten s (sinkWrite c bs (drained c frames s)) where
  enabled := by rw [ingEnabled, ingEnabled, ht, hterm, sinkWrite_hdrDone]; rfl
  fsm := sinkWrite_fsm ..
  len := sinkWrite_len ..
  cnt := sinkWrite_cnt ..
  wr := sinkWrite_wr ..
  fs := sinkWrite_fs ..
  discard := sinkWrite_discard ..
  rd := sinkWrite_rd ..
  cells := by
    have hrest := Framed.advance (front := frames) (frames := []) (by simpa using hf) hs.rd_lt hs.wr_lt
    have hleft : unreadCells c (drained c frames s) = tail.map some := hrest.cells
    rw [unreadCells_sinkWrite, hleft, hf.cells, List.map_append]

end

/-- `t` is left where DRAIN consumes `frames` in `s` and the sink takes all their records (43_frame_emitter.md
R165 to R170). -/
structure Emitted (c : Config) (frames : List (List Byte)) (s t : State) : Prop
    extends DrainedEarlier c frames.flatten s t where
  startEpoch : t.startEpoch = s.startEpoch
  lastNow : t.lastNow = (recordsFor c s.startEpoch s.lastNow s.clockDraws frames).2
  clockDraws : t.clockDraws = s.clockDraws + frames.length
  out : t.out = s.out ++ (recordsFor c s.startEpoch s.lastNow s.clockDraws frames).1

section
variable {c : Config} {s t v w : State} {frames : List (List Byte)} {tail : List Byte}

theorem emitted_nil (hrd : s.rd < c.capacity) : Emitted c [] s s where
  enabled := rfl
  fsm := rfl
  len := rfl
  cnt := rfl
  wr := rfl
  fs := rfl
  discard := rfl
  rd := (Nat.mod_eq_of_lt hrd).symm
  cells := rfl
  startEpoch := rfl
  lastNow := rfl
  clockDraws := rfl
  out := (List.append_nil _).symm

/-- A DRAIN after which the session lasts has emitted the frames it found. -/
theorem emitted_of_drainWith (hs : Consistent c s) (hf : Framed c s frames tail)
    (he : drainEnabled s = true) (h : drainWith c s = .next t) (ht : t.term = false) :
    Emitted c frames s t := by
  obtain ⟨-, -, hterm⟩ := (drainEnabled_iff s).1 he
  rw [drainWith_of_framed hs hf he] at h
  cases h
  exact {
    toDrainedEarlier := hf.drainedEarlier hs hterm ht
    startEpoch := sinkWrite_startEpoch ..
    lastNow := sinkWrite_lastNow ..
    clockDraws := sinkWrite_clockDraws ..
    out := sinkWrite_out_of_live ht }

/-- A DRAIN that is taken where `ready` is set emits the complete frames: without it there are none
(10_state.md R42 item 6). -/
theorem emitted_of_drainIfReady (hv : Consistent c v) (he : ingEnabled v = true)
    (h : if v.ready then drainWith c v = .next w else w = v) (hw : w.term = false) :
    ∃ frames tail, Framed c v frames tail ∧ Emitted c frames v w := by
  obtain ⟨frames, tail, hf, hnone⟩ := hv.framed
  refine ⟨frames, tail, hf, ?_⟩
  cases hready : v.ready with
  | true =>
    rw [hready, if_pos rfl] at h
    have hdrain : drainEnabled v = true := (drainEnabled_iff v).2 ⟨hready, (ingEnabled_iff v).1 he⟩
    exact emitted_of_drainWith hv hf hdrain h hw
  | false =>
    rw [hready, if_neg Bool.false_ne_true] at h
    obtain rfl := hnone hready
    rw [h]
    exact emitted_nil hv.rd_lt

end

end Sys2Proof
end

section
/-! SUPPORT. What must wait, and where no step is enabled (60_exceptions.md R230, R235, R238). -/

namespace Sys2Proof.Machine

theorem enabled_of_term {s : State} (i : Instr) (h : s.term = true) : enabled i s = false := by
  cases i <;> simp [enabled, ingEnabled, drainEnabled, srcerrEnabled, h]

theorem headerEnabled_of_term {s : State} (h : s.term = true) : headerEnabled s = false := by
  simp [headerEnabled, h]

/-- Inputs that must all wait: no RESET, no reserved word, and neither HDR nor an event that is enabled. -/
theorem waiting_iff (s : State) (xs : List Input) :
    (∀ x ∈ xs, selectable s x = false) ↔
      .reset ∉ xs ∧ ¬ presentsReserved xs ∧ (.header ∈ xs → headerEnabled s = false) ∧
        ∀ i, presents i xs → enabled i s = false := by
  constructor
  · intro h
    refine ⟨fun hx => Bool.false_ne_true (h _ hx).symm, fun ⟨w, r, hx, hw⟩ => ?_, h .header,
      fun i ⟨w, hx, hw⟩ => ?_⟩
    · simpa [selectable, hw] using h _ hx
    · simpa [selectable, hw] using h _ hx
  · rintro ⟨hreset, hreserved, hheader, hevent⟩ x hx
    cases x with
    | reset => exact absurd hx hreset
    | header => exact hheader hx
    | event w =>
      cases hw : decode w with
      | ok i => simpa [selectable, hw] using hevent i ⟨w, hx, hw⟩
      | error r => exact absurd ⟨w, r, hx, hw⟩ hreserved

/-- After termination everything but a RESET and a reserved word waits (60_exceptions.md R230). -/
theorem waiting_of_term {s : State} {xs : List Input} (hterm : s.term = true) (hreset : .reset ∉ xs)
    (hreserved : ¬ presentsReserved xs) : ∀ x ∈ xs, selectable s x = false :=
  (waiting_iff s xs).2 ⟨hreset, hreserved, fun _ => headerEnabled_of_term hterm,
    fun i _ => enabled_of_term i hterm⟩

theorem frontWaits_of_waiting {s : State} (h : ∀ x ∈ s.inputs, selectable s x = false) :
    frontWaits s = true := by
  unfold frontWaits
  split
  · rfl
  · next x xs hin => simp [h x (hin ▸ List.mem_cons_self)]

/-- The first selectable input stands behind those that must wait. -/
theorem selectFirst_of_waiting_front {s : State} {pre post : List Input} {x : Input}
    (hpre : ∀ y ∈ pre, selectable s y = false) (hx : selectable s x = true) :
    selectFirst s (pre ++ x :: post) = some (x, pre ++ post) := by
  induction pre with
  | nil => simp [selectFirst, hx]
  | cons y pre ih =>
    obtain ⟨hy, hrest⟩ := List.forall_mem_cons.1 hpre
    simp [selectFirst, hy, ih hrest]

/-- After termination a RESET is taken from behind the inputs that must wait (60_exceptions.md R230). -/
theorem pick_reset_of_term {c : Config} {s : State} {pre post : List Input} (hterm : s.term = true)
    (hin : s.inputs = pre ++ .reset :: post) (hpre : ∀ x ∈ pre, selectable s x = false) :
    pick c s = .reset { s with inputs := pre ++ post } := by
  have hfirst : selectFirst s s.inputs = some (.reset, pre ++ post) :=
    hin ▸ selectFirst_of_waiting_front hpre rfl
  simp [pick, headerEnabled_of_term hterm, hfirst]

/-- `pick` waits where neither HDR nor DRAIN is enabled and every input must wait. -/
theorem pick_eq_wait_iff_waiting (c : Config) (s : State) :
    pick c s = .wait ↔
      headerEnabled s = false ∧ drainEnabled s = false ∧ ∀ x ∈ s.inputs, selectable s x = false := by
  constructor
  · intro h
    rcases pick_cases c s with ⟨w, i, pre, post, -, -, -, -, -, hp⟩ | ⟨-, -, hp⟩ | ⟨-, -, hp⟩ |
      ⟨pre, post, -, -, -, hp⟩ | ⟨pre, post, -, -, hp⟩ | ⟨w, r, pre, post, -, -, -, hp⟩ |
      ⟨hheader, hdrain, hwait, -⟩
    iterate 6 rw [hp] at h; cases h
    exact ⟨by simpa [frontWaits_of_waiting hwait] using hheader, hdrain, hwait⟩
  · rintro ⟨hheader, hdrain, hwait⟩
    simp [pick, hheader, hdrain, selectFirst_none.2 hwait]

/-- No step is enabled exactly in the terminated and the idle state (60_exceptions.md R238). -/
theorem pick_eq_wait_iff (c : Config) (s : State) :
    pick c s = .wait ↔
      .reset ∉ s.inputs ∧ ¬ presentsReserved s.inputs ∧ (s.term = true ∨ idleAtEnd s) := by
  rw [pick_eq_wait_iff_waiting, waiting_iff]
  constructor
  · rintro ⟨hheader, hdrain, hreset, hreserved, -, hevent⟩
    refine ⟨hreset, hreserved, ?_⟩
    cases hterm : s.term with
    | true => exact .inl rfl
    | false =>
      have hdone : s.hdrDone = true := by simpa [headerEnabled, hterm] using hheader
      have hready : s.ready = false := by simpa [drainEnabled, hdone, hterm] using hdrain
      refine .inr ⟨hterm, hdone, hready, fun b hb => ?_, fun hs => ?_⟩
      · simpa [enabled, ingEnabled, hdone, hterm] using hevent _ hb
      · simpa [enabled, srcerrEnabled, hterm] using hevent _ hs
  · rintro ⟨hreset, hreserved, hterm | ⟨hterm, hdone, hready, hing, hsrcerr⟩⟩
    · exact ⟨headerEnabled_of_term hterm, enabled_of_term .drain hterm, hreset, hreserved,
        fun _ => headerEnabled_of_term hterm, fun i _ => enabled_of_term i hterm⟩
    · have hheader : headerEnabled s = false := by simp [headerEnabled, hdone]
      have hdrain : drainEnabled s = false := by simp [drainEnabled, hready]
      refine ⟨hheader, hdrain, hreset, hreserved, fun _ => hheader, fun i hi => ?_⟩
      cases i with
      | ing b => exact absurd hi (hing b)
      | drain => exact hdrain
      | srcerr => exact absurd hi hsrcerr

end Sys2Proof.Machine
end

section
/-! SUPPORT. What arrives from the environment, and a run that has ended (60_exceptions.md R222, R238). -/

namespace Sys2Proof.Machine

theorem presents_append (i : Instr) (xs ys : List Input) :
    presents i (xs ++ ys) ↔ presents i xs ∨ presents i ys := by
  simp [presents, or_and_right, exists_or]

theorem presentsReserved_append (xs ys : List Input) :
    presentsReserved (xs ++ ys) ↔ presentsReserved xs ∨ presentsReserved ys := by
  simp [presentsReserved, or_and_right, exists_or]

theorem reset_mem_arrivals (e : Environment) (n : Nat) :
    .reset ∈ e.arrivals n ↔ .reset ∈ e.offers n := by
  have hinput (o : Offer) : o.input = .reset ↔ o = .reset := by cases o <;> simp [Offer.input]
  simp [Environment.arrivals, hinput]

/-- A word that arrives is a new byte's, SRCERR's or DRAIN's. -/
theorem event_mem_arrivals {e : Environment} {n : Nat} {w : EventWord} (h : .event w ∈ e.arrivals n) :
    ∃ i, w = encode i ∧
      ((∃ b ∈ e.newBytes n, i = .ing b) ∨ (.sourceError ∈ e.offers n ∧ i = .srcerr) ∨ i = .drain) := by
  rcases List.mem_append.1 h with h | h
  · obtain ⟨b, hb, hw⟩ := List.mem_map.1 h
    exact ⟨.ing b, (Input.event.inj hw).symm, .inl ⟨b, hb, rfl⟩⟩
  · obtain ⟨o, ho, hw⟩ := List.mem_map.1 h
    cases o with
    | sourceError => exact ⟨.srcerr, (Input.event.inj hw).symm, .inr (.inl ⟨ho, rfl⟩)⟩
    | drain => exact ⟨.drain, (Input.event.inj hw).symm, .inr (.inr rfl)⟩
    | header => cases hw
    | reset => cases hw

/-- The events that arrive. -/
theorem presents_arrivals {e : Environment} {n : Nat} {i : Instr} (h : presents i (e.arrivals n)) :
    (∃ b ∈ e.newBytes n, i = .ing b) ∨ (.sourceError ∈ e.offers n ∧ i = .srcerr) ∨ i = .drain := by
  obtain ⟨w, hw, hi⟩ := h
  obtain ⟨j, rfl, hj⟩ := event_mem_arrivals hw
  rw [decode_encode] at hi
  cases hi
  exact hj

/-- No environment puts a reserved word forward (log 18). -/
theorem not_presentsReserved_arrivals (e : Environment) (n : Nat) : ¬ presentsReserved (e.arrivals n) := by
  rintro ⟨w, r, hw, hr⟩
  obtain ⟨i, rfl, -⟩ := event_mem_arrivals hw
  rw [decode_encode] at hr
  cases hr

/-- The bytes that arrive are the source's new bytes, in order (60_exceptions.md R222). -/
theorem offeredBytes_arrivals (e : Environment) (n : Nat) :
    offeredBytes (e.arrivals n) = e.newBytes n := by
  have hbytes (bs : List Byte) : offeredBytes (bs.map fun b => .event (encode (.ing b))) = bs := by
    induction bs with
    | nil => rfl
    | cons b bs ih => rw [List.map_cons, offeredBytes_ing_cons (decode_encode _), ih]
  have hothers (os : List Offer) : offeredBytes (os.map Offer.input) = [] := by
    refine List.filterMap_eq_nil_iff.2 fun x hx => ?_
    obtain ⟨o, -, rfl⟩ := List.mem_map.1 hx
    cases o <;> simp [Offer.input, decode_encode]
  rw [Environment.arrivals, offeredBytes_append, hbytes, hothers, List.append_nil]

/-- What arrives after the end does not undo the end (60_exceptions.md R238). -/
theorem ended_arrive {e : Environment} {n : Nat} {s : State} (h : ended e n s) :
    ended e (n + 1) (arrive e n s) := by
  rcases h with hterm | ⟨⟨hterm, hdone, hready, hing, hsrcerr⟩, hno⟩
  · exact .inl hterm
  · obtain ⟨hbytes, herror⟩ := hno n (Nat.le_refl n)
    have hnew {i : Instr} (hi : presents i (e.arrivals n)) : i = .drain := by
      simpa [hbytes, herror] using presents_arrivals hi
    refine .inr ⟨⟨hterm, hdone, hready, fun b hb => ?_, fun hs => ?_⟩,
      fun m hm => hno m (Nat.le_of_succ_le hm)⟩
    · exact ((presents_append ..).1 hb).elim (hing b) fun hb => nomatch hnew hb
    · exact ((presents_append ..).1 hs).elim hsrcerr fun hs => nomatch hnew hs

/-- A run that has ended, and to which no RESET and no reserved word is presented (60_exceptions.md R238). -/
structure AtRest (e : Environment) (n : Nat) (s : State) : Prop where
  ended : ended e n s
  no_reset : .reset ∉ s.inputs
  no_reserved : ¬ presentsReserved s.inputs

/-- What arrives does not disturb the rest, unless it is a RESET. -/
theorem AtRest.arrive {e : Environment} {n : Nat} {s : State} (h : AtRest e n s)
    (hoffers : .reset ∉ e.offers n) : AtRest e (n + 1) (arrive e n s) where
  ended := ended_arrive h.ended
  no_reset hr := (List.mem_append.1 hr).elim h.no_reset fun hr => hoffers ((reset_mem_arrivals e n).1 hr)
  no_reserved hr := ((presentsReserved_append ..).1 hr).elim h.no_reserved (not_presentsReserved_arrivals e n)

/-- At rest there is no step. -/
theorem AtRest.step {e : Environment} {n : Nat} {s : State} (h : AtRest e n s) : step s = .next s := by
  have hwait : pick Config.machine s = .wait :=
    (pick_eq_wait_iff _ s).2 ⟨h.no_reset, h.no_reserved, h.ended.imp_right And.left⟩
  simp [Machine.step, hwait]

/-- At rest a run only takes in what arrives. -/
theorem AtRest.run_succ {e : Environment} {run : Nat → State} {n : Nat} (h : AtRest e n (run n))
    (hrun : IsRun e run) (hoffers : .reset ∉ e.offers n) : run (n + 1) = Machine.arrive e n (run n) := by
  have hnext := (hrun n).symm.trans (h.arrive hoffers).step
  exact Host.Outcome.next.inj hnext

end Sys2Proof.Machine
end

section
/-! SUPPORT. The wait of an enabled DRAIN (60_exceptions.md R237, log 19), and how a session ends (R224, R225,
R228). -/

namespace Sys2Proof.Machine

/-- A DRAIN that is taken clears `ready` and moves on to the next wait's bound (43_frame_emitter.md R160). -/
theorem exec_drain_ends_wait {s t : State} {rest : List Input} (he : drainEnabled s = true)
    (h : exec .drain (countTurn .drain { s with inputs := rest }) = .next t) :
    t.ready = false ∧ t.drainTurns = s.drainTurns + 1 := by
  rcases drainWith_next h with ⟨hno, -⟩ | ⟨-, bs, rd, now, draws, fi, -, -, rfl⟩
  · exact absurd (he.symm.trans hno) nofun
  · simp

/-- An SRCERR that is taken (60_exceptions.md R224). -/
theorem exec_srcerr_of_live {s : State} (h : s.term = false) :
    exec .srcerr s = .next (terminate .sourceUnavailable s) := by
  simp [exec, execSrcerr, srcerrEnabled, h]

/-- Where DRAIN is enabled, the step is an ING that the bound still allows and the wait counts, or it ends the
wait: a DRAIN, an SRCERR or a RESET (60_exceptions.md R237, log 19). -/
theorem step_of_drainEnabled {s t : State} (he : drainEnabled s = true) (h : step s = .next t) :
    (∃ b u, pick Config.machine s = .run (.ing b) u ∧
      s.drainWait ≤ Config.machine.patience s.drainTurns ∧ drainEnabled t = true ∧
      t.drainWait = s.drainWait + 1 ∧ t.drainTurns = s.drainTurns) ∨
    (∃ u, pick Config.machine s = .run .drain u ∧ t.ready = false ∧ t.drainTurns = s.drainTurns + 1) ∨
    (∃ u, pick Config.machine s = .run .srcerr u ∧ t.term = true) ∨
    (∃ u, pick Config.machine s = .reset u ∧ t.ready = false ∧ t.drainTurns = s.drainTurns + 1) := by
  have hheader := headerEnabled_eq_false_of_drainEnabled he
  rcases pick_cases Config.machine s with ⟨w, i, pre, post, -, -, hi, -, hgives, hp⟩ | ⟨-, -, hp⟩ |
    ⟨hh, -, -⟩ | ⟨pre, post, -, hh, -, -⟩ | ⟨pre, post, -, -, hp⟩ | ⟨w, r, pre, post, -, -, -, hp⟩ |
    ⟨-, hd, -, -⟩
  · -- an event that is presented
    have hexec : exec i (countTurn i { s with inputs := pre ++ post }) = .next t := by
      simpa only [step, hp] using h
    cases i with
    | ing b =>
      have hpatient : s.drainWait ≤ Config.machine.patience s.drainTurns := by
        simpa [givesWay, drainDue, he] using hgives
      have hcounted : drainEnabled (countTurn (.ing b) { s with inputs := pre ++ post }) = true := he
      cases hexec
      exact .inl ⟨b, _, hp, hpatient, ingNext_drainEnabled _ b hcounted, by simp [he], by simp⟩
    | drain => exact .inr (.inl ⟨_, hp, exec_drain_ends_wait he hexec⟩)
    | srcerr =>
      obtain ⟨-, -, hterm⟩ := (drainEnabled_iff s).1 he
      rw [countTurn_srcerr, exec_srcerr_of_live (s := { s with inputs := pre ++ post }) hterm] at hexec
      cases hexec
      exact .inr (.inr (.inl ⟨_, hp, rfl⟩))
  · -- the emitter's own DRAIN
    have hexec : exec .drain (countTurn .drain s) = .next t := by simpa only [step, hp] using h
    exact .inr (.inl ⟨_, hp, exec_drain_ends_wait (rest := s.inputs) he hexec⟩)
  · rw [hheader] at hh; cases hh
  · rw [hheader] at hh; cases hh
  · -- RESET
    simp only [step, hp] at h
    cases h
    exact .inr (.inr (.inr ⟨_, hp, rfl, rfl⟩))
  · simp [step, hp] at h
  · rw [he] at hd; cases hd

/-- A write ends a session where the sink closes (60_exceptions.md R225). -/
theorem sinkWrite_closes {c : Config} {bs : List Byte} {s : State}
    (h : (sinkWrite c bs s).term = true) (hs : s.term = false) :
    (sinkWrite c bs s).cause = .sinkClosed ∧ (sinkWrite c bs s).sinkDraws = s.sinkDraws + 1 := by
  rcases sinkWrite_cases c bs s with ⟨-, hw⟩ | ⟨-, -, hw⟩ | ⟨-, -, hw⟩ <;> rw [hw] at h ⊢
  · rw [hs] at h; cases h
  · rw [hs] at h; cases h
  · exact ⟨rfl, rfl⟩

/-- A DRAIN ends a session only by its one write (60_exceptions.md R228). -/
theorem exec_drain_closes {s t : State} {rest : List Input} (hs : s.term = false)
    (h : exec .drain (countTurn .drain { s with inputs := rest }) = .next t) (ht : t.term = true) :
    t.cause = .sinkClosed ∧ t.sinkDraws = s.sinkDraws + 1 ∧ t.hdrDone = true := by
  rcases drainWith_next h with ⟨-, rfl⟩ | ⟨he, bs, rd, now, draws, fi, -, -, rfl⟩
  · rw [hs] at ht; cases ht
  · obtain ⟨-, hdone, -⟩ := (drainEnabled_iff s).1 he
    obtain ⟨hcause, hdraws⟩ := sinkWrite_closes ht hs
    exact ⟨hcause, hdraws, (sinkWrite_hdrDone ..).trans hdone⟩

/-- HDR ends a session only by its one write (60_exceptions.md R228). -/
theorem headerNext_closes {c : Config} {s : State} (hs : s.term = false)
    (ht : (headerNext c s).term = true) :
    (headerNext c s).cause = .sinkClosed ∧ (headerNext c s).sinkDraws = s.sinkDraws + 1 ∧
      (headerNext c s).hdrDone = true := by
  rcases headerNext_cases c s with ⟨-, hn⟩ | ⟨-, hn⟩ <;> rw [hn] at ht ⊢
  · rw [hs] at ht; cases ht
  · obtain ⟨hcause, hdraws⟩ := sinkWrite_closes ht hs
    exact ⟨hcause, hdraws, sinkWrite_hdrDone ..⟩

/-- A step starts the wait of a DRAIN that it enables after HDR at 0 (43_frame_emitter.md R160, log 19). -/
theorem step_starts_wait {s t : State} (hdone : s.hdrDone = true) (hs : drainEnabled s = false)
    (ht : drainEnabled t = true) (h : step s = .next t) :
    t.drainWait = 0 ∧ t.drainTurns = s.drainTurns := by
  obtain ⟨hready, -, hterm⟩ := (drainEnabled_iff t).1 ht
  rcases step_next_cases h with ⟨b, rest, -, rfl⟩ | ⟨rest, he, -⟩ | ⟨rest, -, rfl⟩ | ⟨rest, hh, -⟩ |
    ⟨rest, rfl⟩ | rfl
  · simp [hs]
  · rw [hs] at he; cases he
  · cases hterm
  · rw [((headerEnabled_iff s).1 hh).1] at hdone; cases hdone
  · cases hready
  · rw [hs] at ht; cases ht

/-- From a terminated state only a RESET goes on, to a new session and the next wait's bound (60_exceptions.md
R230, log 19). -/
theorem step_of_term {s t : State} (hs : s.term = true) (h : step s = .next t) :
    t = s ∨ ∃ rest, t = resetNext { s with inputs := rest } := by
  have hno (i : Instr) : enabled i s ≠ true := by simp [enabled_of_term i hs]
  rcases step_next_cases h with ⟨b, rest, he, -⟩ | ⟨rest, he, -⟩ | ⟨rest, hlive, -⟩ | ⟨rest, hh, -⟩ |
    hreset | rfl
  · exact absurd he (hno (.ing b))
  · exact absurd he (hno .drain)
  · rw [hs] at hlive; cases hlive
  · rw [headerEnabled_of_term hs] at hh; cases hh
  · exact .inr hreset
  · exact .inl rfl

end Sys2Proof.Machine
end

section
/-! SUPPORT. The statements of 60_exceptions.md's family, settled. -/

namespace Sys2Proof.Proofs

open Sys2Proof.Machine

/-- Settles O57: without an overrun the INGs do the same after the earlier DRAIN as without it, so the late
DRAIN finds the frames of both DRAINs, and emits their records in the same order at the same samples. -/
theorem outputIsScheduleIndependent : Obligations.OutputIsScheduleIndependent := by
  rintro c s t u v w bs - hs he - hovr hu hu_term ht ht_term rfl hw hw_term
  obtain ⟨front, tail, hf, -⟩ := hs.framed
  have hfirst : Emitted c front s t := emitted_of_drainWith hs hf he ht ht_term
  have hsame := hfirst.toDrainedEarlier.feed hs (hs.drainWith ht) bs hovr
  have hing : ingEnabled (feed c bs t) = true :=
    hsame.enabled.trans (ingEnabled_of_drainEnabled (feed_drainEnabled c bs he))
  obtain ⟨frames, rest, hfv, hsecond⟩ := emitted_of_drainIfReady ((hs.drainWith ht).feed bs) hing hw hw_term
  have hboth : Emitted c (front ++ frames) (feed c bs s) u :=
    emitted_of_drainWith (hs.feed bs) (hsame.framed hf.whole hfv) (feed_drainEnabled c bs he) hu hu_term
  obtain ⟨hepoch_s, hnow_s, hdraws_s⟩ := feed_clock c bs s
  obtain ⟨hepoch_t, hnow_t, hdraws_t⟩ := feed_clock c bs t
  have hrecords := recordsFor_append c s.startEpoch s.lastNow s.clockDraws front frames
  refine ⟨?_, ?_, ?_, ?_, ?_⟩
  · rw [hsecond.out, hboth.out, hepoch_s, hnow_s, hdraws_s, hepoch_t, hnow_t, hdraws_t, feed_out, feed_out,
      hfirst.out, hfirst.startEpoch, hfirst.lastNow, hfirst.clockDraws, hrecords, List.append_assoc]
  · rw [hsecond.wr, hboth.wr, hsame.wr]
  · rw [hsecond.rd, hboth.rd, hsame.rd, Nat.mod_add_mod, List.flatten_append, List.length_append,
      Nat.add_assoc]
  · rw [hsecond.fsm, hboth.fsm, hsame.fsm]
  · rw [hsecond.lastNow, hboth.lastNow, hepoch_s, hnow_s, hdraws_s, hepoch_t, hnow_t, hdraws_t,
      hfirst.startEpoch, hfirst.lastNow, hfirst.clockDraws, hrecords]

/-- Settles O58, by induction on the steps: each takes its bytes off the front of those that wait, and the new
ones arrive behind. -/
theorem runConsumesTheSourceInOrder : Obligations.RunConsumesTheSourceInOrder := by
  intro e run hrun n
  induction n with
  | zero =>
    have hnone : e.source.take 0 = [] := by cases e.source <;> rfl
    simp [Environment.available, consumedBytes, hnone]
  | succ n ih =>
    have hstep : offeredBytes (run n).inputs ++ e.newBytes n =
        (actionAt e run n).bytes ++ offeredBytes (run (n + 1)).inputs := by
      rw [← offeredBytes_arrivals, ← offeredBytes_append]
      exact step_offeredBytes (hrun n)
    rw [e.take_available_succ, ← List.append_assoc, ih, List.append_assoc, hstep, consumedBytes_succ,
      List.append_assoc]

/-- Settles O59, by induction on the INGs that the bound still allows: each of them leaves one fewer. -/
theorem everyRunIsWeaklyFair : Obligations.EveryRunIsWeaklyFair := by
  intro e run n hrun he
  induction hbound : Config.machine.patience (run n).drainTurns + 1 - (run n).drainWait using
    Nat.strong_induction_on generalizing n with
  | _ bound ih =>
    have he : drainEnabled (arrive e n (run n)) = true := he
    have hnone : ∀ k, n ≤ k → k < n → ∃ b s, actionAt e run k = .run (.ing b) s :=
      fun k hle hlt => absurd hlt (Nat.not_lt.2 hle)
    rcases step_of_drainEnabled he (hrun n) with ⟨b, u, hp, hpatient, hstill, hwait, hturns⟩ |
      ⟨u, hp, hready, -⟩ | ⟨u, hp, -⟩ | ⟨u, hp, -⟩
    · -- an ING, which the wait counts
      rw [arrive_drainWait] at hwait hpatient
      rw [arrive_drainTurns] at hturns hpatient
      obtain ⟨m, hle, hm, hings, hends⟩ := ih _ (by rw [hwait, hturns]; omega) (n + 1) hstill rfl
      rw [hwait, hturns] at hm
      refine ⟨m, by omega, by omega, fun k hk hkm => ?_, hends⟩
      rcases Nat.eq_or_lt_of_le hk with rfl | hlt
      · exact ⟨b, u, hp⟩
      · exact hings k hlt hkm
    · exact ⟨n, Nat.le_refl n, Nat.le_add_right .., hnone, .inl ⟨u, hp, hready⟩⟩
    · exact ⟨n, Nat.le_refl n, Nat.le_add_right .., hnone, .inr (.inl ⟨u, hp⟩)⟩
    · exact ⟨n, Nat.le_refl n, Nat.le_add_right .., hnone, .inr (.inr ⟨u, hp⟩)⟩

/-- Settles O14: with `term` set only a RESET or a reserved word is selectable. -/
theorem terminatedStateIsFinal : Obligations.TerminatedStateIsFinal := by
  intro s hterm
  refine ⟨fun i => exec_of_not_enabled (enabled_of_term i hterm), fun hreset hreserved => ?_,
    fun pre post hin hreset hreserved => ?_⟩
  · rw [step, (pick_eq_wait_iff _ s).2 ⟨hreset, hreserved, .inl hterm⟩]
  · rw [step, pick_reset_of_term hterm hin (waiting_of_term hterm hreset hreserved)]

/-- Settles O15: nothing is selectable there, and no arrival but a RESET changes that. -/
theorem runEndsTerminatedOrIdle : Obligations.RunEndsTerminatedOrIdle := by
  refine ⟨pick_eq_wait_iff _, fun e run n hrun hended hreset hreserved hoffers m hm => ?_⟩
  have hrest : AtRest e m (run m) ∧ run m = { run n with inputs := (run m).inputs } := by
    induction m, hm using Nat.le_induction with
    | base => exact ⟨⟨hended, hreset, hreserved⟩, rfl⟩
    | succ m hm ih =>
      obtain ⟨hrest, hsame⟩ := ih
      have hnext := hrest.run_succ hrun (hoffers m hm)
      rw [hnext]
      exact ⟨hrest.arrive (hoffers m hm), by rw [hsame]; rfl⟩
  exact hrest.2

/-- Settles O22: the one cell ING may write is `wr`'s, which lies behind the unread bytes. -/
theorem ingOverwritesNoUnreadByte : Obligations.IngOverwritesNoUnreadByte := by
  intro b s t hwr hrd h k hk
  cases h
  have hindex : unreadIndex Config.machine (ingNext Config.machine b s) k = unreadIndex Config.machine s k := by
    simp [unreadIndex]
  rw [hindex]
  rcases ingNext_ring_cases Config.machine b s with hr | ⟨-, -, -, hr⟩ <;> rw [hr]
  refine Memory.read_write_other s.ring b fun heq => ?_
  have hlt := bytesAvailable_lt (s := s) hwr
  have := unreadIndex_inj hrd (Nat.lt_trans hk hlt) hlt (heq.trans (unreadIndex_available hwr hrd).symm)
  omega

/-- Settles O41, from the three outcomes of a write. -/
theorem sinkAcceptsAnyFrontPart : Obligations.SinkAcceptsAnyFrontPart := by
  refine ⟨sinkWrite_nil, fun c bs s hne => ?_, fun c bs s k hne hk => ⟨fun _ => k, ?_⟩⟩
  · rcases sinkWrite_cases c bs s with ⟨hnil, -⟩ | ⟨-, -, hw⟩ | ⟨-, hshort, hw⟩
    · exact absurd hnil hne
    · exact ⟨bs.length, Nat.le_refl _, by simp [hw]⟩
    · exact ⟨c.sink s.sinkDraws, Nat.le_of_lt hshort, by simp [hw, hshort]⟩
  · rcases sinkWrite_cases { c with sink := fun _ => k } bs s with ⟨hnil, -⟩ | ⟨-, hall, hw⟩ | ⟨-, -, hw⟩
    · exact absurd hnil hne
    · have hall : bs.length ≤ k := hall
      rw [hw, List.take_of_length_le hall]
    · rw [hw]

/-- Settles O55: of the steps only SRCERR and the write of HDR or DRAIN set `term`. -/
theorem terminationHasItsCause : Obligations.TerminationHasItsCause := by
  intro s t hs h ht
  rcases pick_cases Config.machine s with ⟨w, i, pre, post, hin, hw, -, -, -, hp⟩ | ⟨-, -, hp⟩ |
    ⟨-, -, hp⟩ | ⟨pre, post, -, -, -, hp⟩ | ⟨pre, post, -, -, hp⟩ |
    ⟨w, r, pre, post, -, -, -, hp⟩ | ⟨-, -, -, hp⟩ <;> simp only [step, hp] at h
  · -- an event that is presented
    cases i with
    | ing b => cases h; simp [hs] at ht
    | drain => exact .inr (exec_drain_closes hs h ht)
    | srcerr =>
      rw [countTurn_srcerr, exec_srcerr_of_live (s := { s with inputs := pre ++ post }) hs] at h
      cases h
      exact .inl ⟨rfl, rfl, w, by simp [hin], hw⟩
  · -- the emitter's own DRAIN
    exact .inr (exec_drain_closes (rest := s.inputs) hs h ht)
  · -- HDR by itself
    cases h; exact .inr (headerNext_closes hs ht)
  · -- HDR picked by the scheduler
    cases h; exact .inr (headerNext_closes hs ht)
  · -- RESET
    cases h; cases ht
  · -- a reserved word, which is refused
    cases h
  · -- no step
    cases h; rw [hs] at ht; cases ht

/-- Settles O60: the bounds are the lengths asked for, and the count follows what a step can be. -/
theorem drainMayWaitForAnyNumberOfIngs : Obligations.DrainMayWaitForAnyNumberOfIngs := by
  refine ⟨fun c length => ⟨length, fun s he => by simp [drainDue, he]⟩, fun s t h =>
    ⟨fun hs ht => ?_, fun hdone hs ht => step_starts_wait hdone hs ht h, fun hs ht => ?_, fun hs => ?_⟩⟩
  · obtain ⟨hready, -, hterm⟩ := (drainEnabled_iff t).1 ht
    rcases step_of_drainEnabled hs h with ⟨b, u, -, -, -, hcounted⟩ | ⟨u, -, hno, -⟩ | ⟨u, -, hno⟩ |
      ⟨u, -, hno, -⟩
    · exact hcounted
    · rw [hready] at hno; cases hno
    · rw [hterm] at hno; cases hno
    · rw [hready] at hno; cases hno
  · rcases step_of_drainEnabled hs h with ⟨b, u, -, -, hstill, -⟩ | ⟨u, -, -, hturns⟩ | ⟨u, -, hterm⟩ |
      ⟨u, -, -, hturns⟩
    · rw [ht] at hstill; cases hstill
    · exact .inl hturns
    · exact .inr hterm
    · exact .inl hturns
  · rcases step_of_term hs h with rfl | ⟨rest, rfl⟩
    · exact .inl hs
    · exact .inr ⟨rfl, rfl⟩

/-- Settles O40: the clock that always offers `t` has it as its sample. -/
theorem clockSampleIsFreeAboveTheLast : Obligations.ClockSampleIsFreeAboveTheLast := fun c last n =>
  ⟨clockSample_ge c last n, fun t ht => ⟨fun _ => t, if_pos ht⟩⟩

/-- Settles O43: SRCERR is enabled there. -/
theorem srcerrTerminates : Obligations.SrcerrTerminates := fun _ => exec_srcerr_of_live

end Sys2Proof.Proofs
end

section
/-! SUPPORT. The step of a consistent state, the step before HDR has run, and a RESET at the front of the
inputs (70_reset_and_hazards.md R260, R263, R269). -/

namespace Sys2Proof

open Sys2Proof.Machine

/-- Every event has a next state where the invariants hold: what DRAIN reads has been written
(70_reset_and_hazards.md R269). -/
theorem Consistent.exec_next {s : State} (h : Consistent Config.machine s) (i : Instr) :
    ∃ t, exec i s = .next t := by
  cases i with
  | ing b => exact ⟨_, rfl⟩
  | drain =>
    cases he : drainEnabled s with
    | false => exact ⟨s, exec_of_not_enabled he⟩
    | true =>
      obtain ⟨frames, tail, hf, -⟩ := h.framed
      exact ⟨_, drainWith_of_framed h hf he⟩
  | srcerr => exact ⟨_, rfl⟩

/-- A step of a consistent state goes on, or refuses a reserved word that is presented (30_encoding.md R90,
70_reset_and_hazards.md R269). -/
theorem Consistent.step_next_or_refused {s : State} (h : Consistent Config.machine s) :
    (∃ t, step s = .next t) ∨
    ∃ w r, .event w ∈ s.inputs ∧ decode w = .error r ∧ step s = .refused (.reservedEvent r) := by
  rcases pick_cases Config.machine s with ⟨w, i, pre, post, -, -, -, -, -, hp⟩ | ⟨-, -, hp⟩ |
    ⟨-, -, hp⟩ | ⟨pre, post, -, -, -, hp⟩ | ⟨pre, post, -, -, hp⟩ |
    ⟨w, r, pre, post, hin, hw, -, hp⟩ | ⟨-, -, -, hp⟩ <;> simp only [step, hp]
  · -- an event that is presented
    exact .inl (((h.withInputs _).countTurn i).exec_next i)
  · -- the emitter's own DRAIN
    exact .inl ((h.countTurn .drain).exec_next .drain)
  · -- HDR by itself
    exact .inl ⟨_, rfl⟩
  · -- HDR picked by the scheduler
    exact .inl ⟨_, rfl⟩
  · -- RESET
    exact .inl ⟨_, rfl⟩
  · -- a reserved word, which is refused
    exact .inr ⟨w, r, by simp [hin], hw, rfl⟩
  · -- no step
    exact .inl ⟨_, rfl⟩

/-- ING and DRAIN need `hdr_done`, which HDR needs clear (70_reset_and_hazards.md R263). -/
theorem eq_srcerr_of_headerEnabled {s : State} {i : Instr} (h : headerEnabled s = true)
    (hi : enabled i s = true) : i = .srcerr := by
  obtain ⟨hdone, -⟩ := (headerEnabled_iff s).1 h
  cases i with
  | ing b => simp [enabled, ingEnabled, hdone] at hi
  | drain => simp [enabled, drainEnabled, hdone] at hi
  | srcerr => rfl

/-- The choice where HDR is enabled: HDR, or an SRCERR, a RESET or a reserved word that is presented
(43_frame_emitter.md R180, 60_exceptions.md R224, 70_reset_and_hazards.md R263). -/
theorem pick_of_headerEnabled {s : State} (c : Config) (h : headerEnabled s = true) :
    (∃ rest, pick c s = .header { s with inputs := rest }) ∨
    (presents .srcerr s.inputs ∧ ∃ rest, pick c s = .run .srcerr { s with inputs := rest }) ∨
    (.reset ∈ s.inputs ∧ ∃ rest, pick c s = .reset { s with inputs := rest }) ∨
    (presentsReserved s.inputs ∧ ∃ r, pick c s = .reject r) := by
  rcases pick_cases c s with ⟨w, i, pre, post, hin, hw, hi, -, -, hp⟩ | ⟨hd, -, -⟩ | ⟨-, -, hp⟩ |
    ⟨pre, post, -, -, -, hp⟩ | ⟨pre, post, hin, -, hp⟩ | ⟨w, r, pre, post, hin, hw, -, hp⟩ |
    ⟨hno, -, hwait, -⟩
  · -- an event that is presented
    obtain rfl := eq_srcerr_of_headerEnabled h hi
    exact .inr (.inl ⟨⟨w, by simp [hin], hw⟩, _, hp⟩)
  · -- the emitter's own DRAIN
    rw [headerEnabled_eq_false_of_drainEnabled hd] at h
    cases h
  · -- HDR by itself
    exact .inl ⟨s.inputs, hp⟩
  · -- HDR picked by the scheduler
    exact .inl ⟨_, hp⟩
  · -- RESET
    exact .inr (.inr (.inl ⟨by simp [hin], _, hp⟩))
  · -- a reserved word, which is refused
    exact .inr (.inr (.inr ⟨⟨w, r, by simp [hin], hw⟩, r, hp⟩))
  · -- no step
    simp [h, frontWaits_of_waiting hwait] at hno

theorem pick_of_reset_front {c : Config} {s : State} {rest : List Input}
    (hin : s.inputs = .reset :: rest) : pick c s = .reset { s with inputs := rest } := by
  have hfront : frontWaits s = false := by simp [frontWaits, hin, selectable]
  have hfirst : selectFirst s s.inputs = some (.reset, rest) := by simp [hin, selectFirst, selectable]
  simp [pick, hfront, hfirst]

/-- No ring cell has a value at reset (70_reset_and_hazards.md R261). -/
theorem read_reset_ring (i : Nat) : Memory.read State.reset.ring i = none := rfl

end Sys2Proof
end

section
/-! SUPPORT. The statements of 70_reset_and_hazards.md's family, settled. -/

namespace Sys2Proof.Proofs

open Sys2Proof.Machine

/-- Settles O50: a step of a consistent state goes on, or refuses a reserved word that is presented. -/
theorem consistentStepNeverFaults : Obligations.ConsistentStepNeverFaults := by
  intro s hs
  rcases hs.step_next_or_refused with ⟨t, h⟩ | ⟨w, name, hin, hw, h⟩ <;> rw [h]
  · exact ⟨nofun, nofun⟩
  · refine ⟨nofun, fun r hr => ?_⟩
    cases hr
    exact ⟨w, name, hin, hw, rfl⟩

/-- Settles O12, from the choice `pick` makes where HDR is enabled. -/
theorem headerComesBeforeAnyEvent : Obligations.HeaderComesBeforeAnyEvent := by
  refine ⟨fun s t he h => ?_, fun s he hsrcerr hreserved hreset => ?_⟩
  · obtain ⟨-, hterm⟩ := (headerEnabled_iff s).1 he
    rcases pick_of_headerEnabled Config.machine he with ⟨rest, hp⟩ | ⟨-, rest, hp⟩ | ⟨-, rest, hp⟩ |
      ⟨-, r, hp⟩ <;> simp only [step, hp] at h
    · cases h
      exact ⟨rest, .inl rfl⟩
    · rw [exec_srcerr_of_live (s := { s with inputs := rest }) hterm] at h
      cases h
      exact ⟨rest, .inr (.inl rfl)⟩
    · cases h
      exact ⟨rest, .inr (.inr rfl)⟩
    · cases h
  · rcases pick_of_headerEnabled Config.machine he with ⟨rest, hp⟩ | ⟨hin, -⟩ | ⟨hin, -⟩ | ⟨hin, -⟩
    · exact ⟨rest, by rw [step, hp]⟩
    · exact absurd hin hsrcerr
    · exact absurd hin hreset
    · exact absurd hin hreserved

/-- Settles O17: a RESET at the front is selectable in every state. -/
theorem resetIsTakenInEveryState : Obligations.ResetIsTakenInEveryState := by
  intro s rest hin
  refine ⟨resetNext { s with inputs := rest }, by rw [step, pick_of_reset_front hin], ?_⟩
  exact ⟨rfl, rfl, rfl, rfl, rfl, rfl, rfl, rfl, rfl, rfl, rfl, rfl, rfl, read_reset_ring, rfl, rfl⟩

/-- Settles O16, from the values of `State.reset`. -/
theorem resetValues : Obligations.ResetValues :=
  ⟨rfl, rfl, rfl, rfl, rfl, rfl, read_reset_ring, rfl, rfl, rfl, rfl, rfl, rfl, rfl, rfl, rfl⟩

end Sys2Proof.Proofs
end
